-- ==== Sys2Proof/Word.lean ====
section
/-! DEFINITION. The word and byte of the WIC-PAO block (R10, R70 of spec/). -/

namespace Sys2Proof

/-- A 32-bit register or bus word: the raw bits of every format of R10. -/
abbrev Word := BitVec 32

/-- An 8-bit byte: a header field (R84), or one byte of the window (R70). -/
abbrev Byte := BitVec 8

end Sys2Proof
end

