-- ==== Sys2Proof/Syntax.lean ====
section
/-! DEFINITION. The commands of the WIC-PAO block: one constructor of `Instr` for each of the 36 rows
of R88. The fields are the header's UNIT and SUB (R84), as raw bytes: a header whose UNIT or SUB is out
of range still selects its row (R89) and fails when it executes (R86; log entry 10). ARG is no field of
the header: it is read from CMD_ARG (R83). -/

namespace Sys2Proof

/-- The opcode classes of R87. -/
inductive OpClass where
  /-- global: names no unit -/
  | G
  /-- names oscillator UNIT -/
  | O
  /-- names channel UNIT -/
  | C
  /-- names interpolator UNIT -/
  | I
deriving DecidableEq, Repr

/-- The command errors of R179. -/
inductive CmdErr where
  /-- ERR_OPCODE: OPC is not in the opcode map -/
  | opcode
  /-- ERR_RSVD: a must-be-zero header field is not zero -/
  | rsvd
  /-- ERR_UNIT: UNIT is at or above the limit of the class -/
  | unit
  /-- ERR_SUB: SUB is at or above nsub -/
  | sub
  /-- ERR_ARG: ARG is not legal for the opcode -/
  | arg
deriving DecidableEq, Repr

/-- The commands (R88), in the table's order. -/
inductive Instr where
  | nop
  | setSampleRate
  | setMaxBlock
  | render
  | reset
  | clearStatus
  | rampSetTarget
  | rampSetTime
  | rampSetValue
  | oscSetFreq (unit : Byte)
  | oscSetWave (unit : Byte)
  | oscSetPw (unit : Byte)
  | oscSetFmul (unit : Byte)
  | oscSetPoff (unit : Byte)
  | oscSetPhase (unit : Byte)
  | oscSetMode (unit : Byte)
  | oscEnable (unit : Byte)
  | oscStep (unit : Byte)
  | oscTick (unit : Byte)
  | chEnable (unit : Byte)
  | chSetTapSrc (unit sub : Byte)
  | chSetTapGain (unit sub : Byte)
  | chSetOffset (unit : Byte)
  | chSetClip (unit : Byte)
  | chSetFlags (unit : Byte)
  | chSetCoef (unit sub : Byte)
  | chClearHist (unit : Byte)
  | chSetDry (unit : Byte)
  | chSetWet (unit : Byte)
  | chSetGain (unit : Byte)
  | chSetPan (unit : Byte)
  | ipEnable (unit : Byte)
  | ipSetSrc (unit : Byte)
  | ipSetDest (unit : Byte)
  | ipSetMin (unit : Byte)
  | ipSetMax (unit : Byte)
deriving DecidableEq, Repr

end Sys2Proof
end

