-- ==== Sys2Proof/Config.lean ====
section
/-! DEFINITION. What an implementation of the block fixes (R8), and the two things the spec leaves
open: the sine table SINE (R9) and OUTBUF's content after a hardware reset (R197). -/

namespace Sys2Proof.Config

/-- NOSC of R8: the number of oscillators. -/
abbrev nosc : Nat := 32
/-- NCH of R8: the number of channels. -/
abbrev nch : Nat := 16
/-- NIP of R8: the number of interpolators. -/
abbrev nip : Nat := 16
/-- OUTBUF_CAP of R8: the output buffer's capacity in stereo frames. -/
abbrev outbufCap : Nat := 1024
/-- SINE_ERR of R8: the bound on SINE's error, in FX LSBs. -/
abbrev sineErr : Nat := 64

/-- A sine table the spec allows (R9): a total function from a 32-bit phase to a signed FX integer
with the five properties S1 to S5. The negative of a phase word is `2^32 - q`. -/
structure SineTable where
  /-- the FX integer looked up at a phase -/
  value : Word → Int
  /-- S1: the range [-1.0, 1.0]. -/
  range : ∀ q, -0x1000000 ≤ value q ∧ value q ≤ 0x1000000
  /-- S2: the four quarter phases. -/
  quarters : value 0x00000000 = 0 ∧ value 0x40000000 = 0x1000000 ∧
    value 0x80000000 = 0 ∧ value 0xC0000000 = -0x1000000
  /-- S3: odd symmetry about phase 0. -/
  odd : ∀ q, q ≠ 0 → value (-q) = -value q
  /-- S4: the first half cycle mirrored at its middle. -/
  mirror : ∀ q, q.toNat ≤ 0x80000000 → value (0x80000000 - q) = value q
  /-- S5: the accuracy bound SINE_ERR. -/
  accuracy : ∀ q, |(value q : ℝ) - 2 ^ 24 * Real.sin (2 * Real.pi * q.toNat / 2 ^ 32)| ≤ (sineErr : ℝ)

/-! ### R9's requirement can be met -/

/-- The Taylor polynomial of degree 13 is within `10^-7` of the sine on a quarter cycle. -/
theorem sin_taylor_error {x : ℝ} (h0 : 0 ≤ x) (h1 : x ≤ 1.5708) :
    |Real.sin x - (x - x^3/6 + x^5/120 - x^7/5040 + x^9/362880 - x^11/39916800 + x^13/6227020800)| ≤ 1/10^7 := by
  have hx : ‖(x * Complex.I : ℂ)‖ = x := by simp [abs_of_nonneg h0]
  have hb := Complex.exp_bound' (x := x * Complex.I) (n := 14) (by rw [hx]; norm_num; linarith)
  rw [hx] at hb
  have him := (Complex.abs_im_le_norm _).trans hb
  have hsum : (Complex.exp (x * Complex.I) - ∑ m ∈ Finset.range 14, (x * Complex.I) ^ m / (m.factorial : ℂ)).im
     = Real.sin x - (x - x^3/6 + x^5/120 - x^7/5040 + x^9/362880 - x^11/39916800 + x^13/6227020800) := by
    rw [Complex.sub_im, Complex.exp_ofReal_mul_I_im]
    congr 1
    have : (∑ m ∈ Finset.range 14, ((x:ℂ) * Complex.I) ^ m / (m.factorial : ℂ)) =
       ((1 - x^2/2 + x^4/24 - x^6/720 + x^8/40320 - x^10/3628800+x^12/479001600 : ℝ) : ℂ)
       + ((x - x^3/6 + x^5/120 - x^7/5040 + x^9/362880 - x^11/39916800 + x^13/6227020800 : ℝ):ℂ) * Complex.I := by
      have h2 : Complex.I ^ 2 = -1 := Complex.I_sq
      have h3 : Complex.I ^ 3 = -Complex.I := by rw [pow_succ, h2]; ring
      have h4 : Complex.I ^ 4 = 1 := by rw [show (4:ℕ) = 2*2 by rfl, pow_mul, h2]; ring
      have h5 : Complex.I ^ 5 = Complex.I := by rw [pow_succ, h4]; ring
      have h6 : Complex.I ^ 6 = -1 := by rw [pow_succ, h5, ← sq, h2]
      have h7 : Complex.I ^ 7 = -Complex.I := by rw [pow_succ, h6]; ring
      have h8 : Complex.I ^ 8 = 1 := by rw [pow_succ, h7, neg_mul, ← sq, h2]; ring
      have h9 : Complex.I ^ 9 = Complex.I := by rw [pow_succ, h8]; ring
      have h10 : Complex.I ^ 10 = -1 := by rw [pow_succ, h9, ← sq, h2]
      have h11 : Complex.I ^ 11 = -Complex.I := by rw [pow_succ, h10]; ring
      have h12 : Complex.I ^ 12 = 1 := by rw [pow_succ, h11, neg_mul, ← sq, h2]; ring
      have h13 : Complex.I ^ 13 = Complex.I := by rw [pow_succ, h12]; ring
      simp only [Finset.sum_range_succ, Finset.sum_range_zero, mul_pow, h2,h3,h4,h5,h6,h7,h8,h9,h10,h11,h12,h13, Nat.factorial]
      push_cast
      ring
    rw [this]; simp [-Complex.ofReal_add, -Complex.ofReal_sub,-Complex.ofReal_pow, -Complex.ofReal_div]
  rw [hsum] at him
  refine him.trans ?_
  have : x^14 ≤ 1.5708^14 := pow_le_pow_left₀ h0 h1 14
  norm_num [Nat.factorial] at this ⊢
  linarith

/-- The Taylor polynomial of the sine of degree 13, on rationals. -/
def sinePoly (x : ℚ) : ℚ := x - x^3/6 + x^5/120 - x^7/5040 + x^9/362880 - x^11/39916800 + x^13/6227020800

/-- The first quarter cycle of one allowed table: the polynomial, rounded down and clamped. -/
def quarterSine (q : Nat) : Int :=
  if q = 0x40000000 then 0x1000000
  else max 0 (min 0x1000000 ⌊2 ^ 24 * sinePoly (3.14159265358979323846 * q / 2 ^ 31)⌋)

/-- The first half cycle, by the mirror symmetry S4. -/
def halfSine (q : Nat) : Int := quarterSine (min q (0x80000000 - q))

/-- The whole cycle, by the odd symmetry S3. -/
def wholeSine (q : Nat) : Int :=
  if q ≤ 0x80000000 then halfSine q else -halfSine (0x100000000 - q)

theorem quarterSine_zero : quarterSine 0 = 0 := by norm_num [quarterSine, sinePoly]
theorem quarterSine_range (q : Nat) : 0 ≤ quarterSine q ∧ quarterSine q ≤ 0x1000000 := by
  unfold quarterSine; split
  · norm_num
  · exact ⟨le_max_left _ _, max_le (by norm_num) (min_le_left _ _)⟩

theorem quarterSine_accuracy (q : Nat) (h : q ≤ 0x40000000) :
    |(quarterSine q : ℝ) - 2 ^ 24 * Real.sin (2 * Real.pi * q / 2 ^ 32)| ≤ 64 := by
  have hq : (q : ℝ) ≤ 0x40000000 := by exact_mod_cast h
  have hq0 : (0 : ℝ) ≤ q := Nat.cast_nonneg _
  have hp1 := Real.pi_gt_d20
  have hp2 := Real.pi_lt_d20
  unfold quarterSine; split
  · next he =>
    subst he
    have : (2 * Real.pi * ((0x40000000 : ℕ) : ℝ) / 2 ^ 32) = Real.pi / 2 := by push_cast; ring
    rw [this, Real.sin_pi_div_two]; norm_num
  · have hx0 : (0 : ℝ) ≤ 3.14159265358979323846 * q / 2 ^ 31 := by positivity
    have hx1 : (3.14159265358979323846 * q / 2 ^ 31 : ℝ) ≤ 1.5708 := by
      rw [div_le_iff₀ (by positivity)]; norm_num; linarith
    have h1 := sin_taylor_error hx0 hx1
    have h2 : |Real.sin (3.14159265358979323846 * q / 2 ^ 31) - Real.sin (2 * Real.pi * q / 2 ^ 32)| ≤ 1/10^7 := by
      refine (Real.abs_sin_sub_sin_le _ _).trans ?_
      rw [abs_le]
      have e : (3.14159265358979323846 * q / 2 ^ 31 - 2 * Real.pi * q / 2 ^ 32 : ℝ) = (3.14159265358979323846 - Real.pi) * (q / 2^31) := by ring
      rw [e]
      have : (q / 2^31 : ℝ) ≤ 1 := by rw [div_le_one (by positivity)]; norm_num; linarith
      have : (0:ℝ) ≤ q / 2^31 := by positivity
      constructor <;> nlinarith
    set v : ℚ := 2 ^ 24 * sinePoly (3.14159265358979323846 * q / 2 ^ 31) with hv
    have hvr : ((v : ℚ) : ℝ) = 2 ^ 24 * ((3.14159265358979323846 * q / 2 ^ 31 : ℝ) - (3.14159265358979323846 * q / 2 ^ 31 : ℝ)^3/6 + (3.14159265358979323846 * q / 2 ^ 31 : ℝ)^5/120 - (3.14159265358979323846 * q / 2 ^ 31 : ℝ)^7/5040 + (3.14159265358979323846 * q / 2 ^ 31 : ℝ)^9/362880 - (3.14159265358979323846 * q / 2 ^ 31 : ℝ)^11/39916800 + (3.14159265358979323846 * q / 2 ^ 31 : ℝ)^13/6227020800) := by
      rw [hv, sinePoly]; push_cast; rfl
    have hf1 : ((⌊v⌋ : ℤ) : ℝ) ≤ (v : ℝ) := by exact_mod_cast Int.floor_le v
    have hf2 : (v : ℝ) < (⌊v⌋ : ℤ) + 1 := by exact_mod_cast Int.lt_floor_add_one v
    rw [hvr] at hf1 hf2
    set p : ℝ := (3.14159265358979323846 * q / 2 ^ 31 : ℝ) - (3.14159265358979323846 * q / 2 ^ 31 : ℝ)^3/6 + (3.14159265358979323846 * q / 2 ^ 31 : ℝ)^5/120 - (3.14159265358979323846 * q / 2 ^ 31 : ℝ)^7/5040 + (3.14159265358979323846 * q / 2 ^ 31 : ℝ)^9/362880 - (3.14159265358979323846 * q / 2 ^ 31 : ℝ)^11/39916800 + (3.14159265358979323846 * q / 2 ^ 31 : ℝ)^13/6227020800
    set s := Real.sin (2 * Real.pi * q / 2 ^ 32)
    have hs1 : s ≤ 1 := Real.sin_le_one _
    have hs0 : 0 ≤ s := Real.sin_nonneg_of_nonneg_of_le_pi (by positivity) (by
      rw [div_le_iff₀ (by positivity)]; nlinarith)
    have hd : |p - s| ≤ 2/10^7 := by
      rw [abs_le] at *; constructor <;> linarith [h1.1, h1.2, h2.1, h2.2]
    rw [abs_le] at hd
    push_cast
    rw [abs_le]
    constructor
    · have : (2:ℝ)^24 * s - 64 ≤ max 0 (min 0x1000000 ((⌊v⌋ : ℤ) : ℝ)) := by
        apply le_max_of_le_right
        apply le_min
        · norm_num; linarith
        · norm_num at *; linarith
      linarith
    · have : max 0 (min 0x1000000 ((⌊v⌋ : ℤ) : ℝ)) ≤ (2:ℝ)^24 * s + 64 := by
        apply max_le
        · positivity
        · apply min_le_of_right_le
          norm_num at *; linarith
      linarith

theorem halfSine_accuracy (q : Nat) (h : q ≤ 0x80000000) :
    |(halfSine q : ℝ) - 2 ^ 24 * Real.sin (2 * Real.pi * q / 2 ^ 32)| ≤ 64 := by
  rcases Nat.le_total q 0x40000000 with hq | hq
  · rw [halfSine, min_eq_left (by omega)]; exact quarterSine_accuracy q hq
  · rw [halfSine, min_eq_right (by omega)]
    have := quarterSine_accuracy (0x80000000 - q) (by omega)
    rwa [show 2 * Real.pi * ((0x80000000 - q : ℕ) : ℝ) / 2 ^ 32 = Real.pi - 2 * Real.pi * q / 2 ^ 32 by
      rw [Nat.cast_sub h]; push_cast; ring, Real.sin_pi_sub] at this

theorem wholeSine_accuracy (q : Nat) (h : q ≤ 0x100000000) :
    |(wholeSine q : ℝ) - 2 ^ 24 * Real.sin (2 * Real.pi * q / 2 ^ 32)| ≤ 64 := by
  unfold wholeSine; split
  · next hq => exact halfSine_accuracy q hq
  · next hq =>
    have := halfSine_accuracy (0x100000000 - q) (by omega)
    rw [show 2 * Real.pi * ((0x100000000 - q : ℕ) : ℝ) / 2 ^ 32 = 2 * Real.pi - 2 * Real.pi * q / 2 ^ 32 by
      rw [Nat.cast_sub h]; push_cast; ring, Real.sin_two_pi_sub] at this
    rw [← abs_neg]; push_cast; convert this using 2; ring


/-- A table with all five properties, so that R9's requirement is one that a table can meet. It is
NOT the block's table: `sineTable` below is opaque, and nothing can be proved of it but S1 to S5. -/
def sineWitness : SineTable where
  value q := wholeSine q.toNat
  range q := by
    have := quarterSine_range
    unfold wholeSine halfSine
    split
    · have := this (min q.toNat (0x80000000 - q.toNat)); omega
    · have := this (min (0x100000000 - q.toNat) (0x80000000 - (0x100000000 - q.toNat))); omega
  quarters := by
    have := quarterSine_zero
    refine ⟨?_, ?_, ?_, ?_⟩ <;> simp [wholeSine, halfSine, this] <;> simp [quarterSine]
  odd q h := by
    have hq : q.toNat ≠ 0 := fun e => h (BitVec.eq_of_toNat_eq (by simpa using e))
    have hl := q.isLt
    rw [BitVec.toNat_neg, Nat.mod_eq_of_lt (by omega)]
    unfold wholeSine
    rcases Nat.lt_trichotomy q.toNat 0x80000000 with c | c | c
    · rw [if_neg (by omega), if_pos (by omega)]; norm_num
      congr 1; omega
    · rw [c]; simp [halfSine, quarterSine_zero]
    · rw [if_pos (by omega), if_neg (by omega)]; norm_num
  mirror q h := by
    have : (0x80000000 - q : Word).toNat = 0x80000000 - q.toNat := by
      rw [BitVec.toNat_sub]; simp; omega
    have hmin : min (0x80000000 - q.toNat) (0x80000000 - (0x80000000 - q.toNat))
        = min q.toNat (0x80000000 - q.toNat) := by omega
    rw [this, wholeSine, wholeSine, if_pos (by omega), if_pos h, halfSine, halfSine, hmin]
  accuracy q := by exact_mod_cast wholeSine_accuracy q.toNat (by have := q.isLt; omega)


/-- SINE of R9, the spec's open parameter (OPEN in D5; log entry 5): SOME table with the properties
S1 to S5. It has no body, so a proof can use S1 to S5 and nothing else; the bracketed argument only
says that such a table exists. -/
opaque sineTable [Inhabited SineTable] : SineTable

/-- SINE(q) of R9, a signed FX integer. -/
def sine (q : Word) : Int := (@sineTable ⟨sineWitness⟩).value q

/-- The byte of OUTBUF at window offset `a` after the `e`-th hardware reset: unspecified, "an
arbitrary value fixed at reset" (R197; log entry 6). A free value: it has no body. DESIGN CHOICE (log
entry 6): it is one function for all instances (R191), so that two instances with the same count of
hardware resets read equal unwritten bytes, which the spec leaves open. -/
opaque outbufPowerOn (e a : Nat) : Byte

end Sys2Proof.Config
end

