-- ==== Sys2Proof/WellFormed.lean ====
section
/-! DEFINITION. Which commands are well formed: UNIT below the limit of the opcode's class and SUB in
the opcode's SUB range (R84, R86, R88). A command that is not well formed is no decoding error: its
meaning fails with ERR_UNIT or ERR_SUB. -/

namespace Sys2Proof

/-- LIMIT(class) of R86. -/
def OpClass.limit : OpClass → Nat
  | .G => 1
  | .O => Config.nosc
  | .C => Config.nch
  | .I => Config.nip

/-- The class column of R88. -/
def Instr.cls : Instr → OpClass
  | .nop => .G
  | .setSampleRate => .G
  | .setMaxBlock => .G
  | .render => .G
  | .reset => .G
  | .clearStatus => .G
  | .rampSetTarget => .G
  | .rampSetTime => .G
  | .rampSetValue => .G
  | .oscSetFreq _ => .O
  | .oscSetWave _ => .O
  | .oscSetPw _ => .O
  | .oscSetFmul _ => .O
  | .oscSetPoff _ => .O
  | .oscSetPhase _ => .O
  | .oscSetMode _ => .O
  | .oscEnable _ => .O
  | .oscStep _ => .O
  | .oscTick _ => .O
  | .chEnable _ => .C
  | .chSetTapSrc _ _ => .C
  | .chSetTapGain _ _ => .C
  | .chSetOffset _ => .C
  | .chSetClip _ => .C
  | .chSetFlags _ => .C
  | .chSetCoef _ _ => .C
  | .chClearHist _ => .C
  | .chSetDry _ => .C
  | .chSetWet _ => .C
  | .chSetGain _ => .C
  | .chSetPan _ => .C
  | .ipEnable _ => .I
  | .ipSetSrc _ => .I
  | .ipSetDest _ => .I
  | .ipSetMin _ => .I
  | .ipSetMax _ => .I

/-- The header's UNIT field; 0 for class G (R84). -/
def Instr.unit : Instr → Byte
  | .nop => 0
  | .setSampleRate => 0
  | .setMaxBlock => 0
  | .render => 0
  | .reset => 0
  | .clearStatus => 0
  | .rampSetTarget => 0
  | .rampSetTime => 0
  | .rampSetValue => 0
  | .oscSetFreq u => u
  | .oscSetWave u => u
  | .oscSetPw u => u
  | .oscSetFmul u => u
  | .oscSetPoff u => u
  | .oscSetPhase u => u
  | .oscSetMode u => u
  | .oscEnable u => u
  | .oscStep u => u
  | .oscTick u => u
  | .chEnable u => u
  | .chSetTapSrc u _ => u
  | .chSetTapGain u _ => u
  | .chSetOffset u => u
  | .chSetClip u => u
  | .chSetFlags u => u
  | .chSetCoef u _ => u
  | .chClearHist u => u
  | .chSetDry u => u
  | .chSetWet u => u
  | .chSetGain u => u
  | .chSetPan u => u
  | .ipEnable u => u
  | .ipSetSrc u => u
  | .ipSetDest u => u
  | .ipSetMin u => u
  | .ipSetMax u => u

/-- The header's SUB field; 0 for an opcode without SUB (R84). -/
def Instr.sub : Instr → Byte
  | .nop => 0
  | .setSampleRate => 0
  | .setMaxBlock => 0
  | .render => 0
  | .reset => 0
  | .clearStatus => 0
  | .rampSetTarget => 0
  | .rampSetTime => 0
  | .rampSetValue => 0
  | .oscSetFreq _ => 0
  | .oscSetWave _ => 0
  | .oscSetPw _ => 0
  | .oscSetFmul _ => 0
  | .oscSetPoff _ => 0
  | .oscSetPhase _ => 0
  | .oscSetMode _ => 0
  | .oscEnable _ => 0
  | .oscStep _ => 0
  | .oscTick _ => 0
  | .chEnable _ => 0
  | .chSetTapSrc _ t => t
  | .chSetTapGain _ t => t
  | .chSetOffset _ => 0
  | .chSetClip _ => 0
  | .chSetFlags _ => 0
  | .chSetCoef _ t => t
  | .chClearHist _ => 0
  | .chSetDry _ => 0
  | .chSetWet _ => 0
  | .chSetGain _ => 0
  | .chSetPan _ => 0
  | .ipEnable _ => 0
  | .ipSetSrc _ => 0
  | .ipSetDest _ => 0
  | .ipSetMin _ => 0
  | .ipSetMax _ => 0

/-- The SUB column of R88 as the number of legal values; 0 where SUB must be 0. -/
def Instr.nsub : Instr → Nat
  | .nop => 0
  | .setSampleRate => 0
  | .setMaxBlock => 0
  | .render => 0
  | .reset => 0
  | .clearStatus => 0
  | .rampSetTarget => 0
  | .rampSetTime => 0
  | .rampSetValue => 0
  | .oscSetFreq _ => 0
  | .oscSetWave _ => 0
  | .oscSetPw _ => 0
  | .oscSetFmul _ => 0
  | .oscSetPoff _ => 0
  | .oscSetPhase _ => 0
  | .oscSetMode _ => 0
  | .oscEnable _ => 0
  | .oscStep _ => 0
  | .oscTick _ => 0
  | .chEnable _ => 0
  | .chSetTapSrc _ _ => 4
  | .chSetTapGain _ _ => 4
  | .chSetOffset _ => 0
  | .chSetClip _ => 0
  | .chSetFlags _ => 0
  | .chSetCoef _ _ => 5
  | .chClearHist _ => 0
  | .chSetDry _ => 0
  | .chSetWet _ => 0
  | .chSetGain _ => 0
  | .chSetPan _ => 0
  | .ipEnable _ => 0
  | .ipSetSrc _ => 0
  | .ipSetDest _ => 0
  | .ipSetMin _ => 0
  | .ipSetMax _ => 0

/-- UNIT is below the limit of its class. -/
def Instr.unitOk (i : Instr) : Bool := i.unit.toNat < i.cls.limit

/-- SUB is in the opcode's range. -/
def Instr.subOk (i : Instr) : Bool := i.nsub == 0 || i.sub.toNat < i.nsub

/-- Well formed: the header passes every check of R86 but the one on ARG. -/
def Instr.wellFormed (i : Instr) : Bool := i.unitOk && i.subOk

end Sys2Proof
end

