-- ==== Sys2Proof/Decode.lean ====
section
/-! DEFINITION. Decoding a header word (R84, R86, R88) and encoding a command. -/

namespace Sys2Proof

/-- OPC, `h[31:24]` (R84). -/
def headerOpc (h : Word) : Byte := h.extractLsb' 24 8
/-- UNIT, `h[23:16]` (R84). -/
def headerUnit (h : Word) : Byte := h.extractLsb' 16 8
/-- SUB, `h[15:8]` (R84). -/
def headerSub (h : Word) : Byte := h.extractLsb' 8 8
/-- RSVD, `h[7:0]` (R84). -/
def headerRsvd (h : Word) : Byte := h.extractLsb' 0 8

/-- A header from its fields, RSVD 0 (R84): `oooooooo uuuuuuuu ssssssss 00000000`. -/
def header (opc unit sub : Byte) : Word := opc ++ unit ++ sub ++ (0 : Byte)

/-- A row of the opcode map (R88): its class, its number of SUB values (0: SUB must be 0), and the
command that a header of this row is. -/
structure OpRow where
  cls : OpClass
  nsub : Nat
  build : Byte → Byte → Instr

/-- OPMAP of R86: the rows of R88. Every opcode that is not listed is absent (R90). -/
def opRow (opc : Byte) : Option OpRow :=
  match opc.toNat with
  | 0x00 => some ⟨.G, 0, fun _ _ => .nop⟩
  | 0x01 => some ⟨.G, 0, fun _ _ => .setSampleRate⟩
  | 0x02 => some ⟨.G, 0, fun _ _ => .setMaxBlock⟩
  | 0x03 => some ⟨.G, 0, fun _ _ => .render⟩
  | 0x04 => some ⟨.G, 0, fun _ _ => .reset⟩
  | 0x05 => some ⟨.G, 0, fun _ _ => .clearStatus⟩
  | 0x06 => some ⟨.G, 0, fun _ _ => .rampSetTarget⟩
  | 0x07 => some ⟨.G, 0, fun _ _ => .rampSetTime⟩
  | 0x08 => some ⟨.G, 0, fun _ _ => .rampSetValue⟩
  | 0x10 => some ⟨.O, 0, fun u _ => .oscSetFreq u⟩
  | 0x11 => some ⟨.O, 0, fun u _ => .oscSetWave u⟩
  | 0x12 => some ⟨.O, 0, fun u _ => .oscSetPw u⟩
  | 0x13 => some ⟨.O, 0, fun u _ => .oscSetFmul u⟩
  | 0x14 => some ⟨.O, 0, fun u _ => .oscSetPoff u⟩
  | 0x15 => some ⟨.O, 0, fun u _ => .oscSetPhase u⟩
  | 0x16 => some ⟨.O, 0, fun u _ => .oscSetMode u⟩
  | 0x17 => some ⟨.O, 0, fun u _ => .oscEnable u⟩
  | 0x18 => some ⟨.O, 0, fun u _ => .oscStep u⟩
  | 0x19 => some ⟨.O, 0, fun u _ => .oscTick u⟩
  | 0x20 => some ⟨.C, 0, fun u _ => .chEnable u⟩
  | 0x21 => some ⟨.C, 4, fun u t => .chSetTapSrc u t⟩
  | 0x22 => some ⟨.C, 4, fun u t => .chSetTapGain u t⟩
  | 0x23 => some ⟨.C, 0, fun u _ => .chSetOffset u⟩
  | 0x24 => some ⟨.C, 0, fun u _ => .chSetClip u⟩
  | 0x25 => some ⟨.C, 0, fun u _ => .chSetFlags u⟩
  | 0x26 => some ⟨.C, 5, fun u t => .chSetCoef u t⟩
  | 0x27 => some ⟨.C, 0, fun u _ => .chClearHist u⟩
  | 0x28 => some ⟨.C, 0, fun u _ => .chSetDry u⟩
  | 0x29 => some ⟨.C, 0, fun u _ => .chSetWet u⟩
  | 0x2A => some ⟨.C, 0, fun u _ => .chSetGain u⟩
  | 0x2B => some ⟨.C, 0, fun u _ => .chSetPan u⟩
  | 0x30 => some ⟨.I, 0, fun u _ => .ipEnable u⟩
  | 0x31 => some ⟨.I, 0, fun u _ => .ipSetSrc u⟩
  | 0x32 => some ⟨.I, 0, fun u _ => .ipSetDest u⟩
  | 0x33 => some ⟨.I, 0, fun u _ => .ipSetMin u⟩
  | 0x34 => some ⟨.I, 0, fun u _ => .ipSetMax u⟩
  | _ => none

/-- The first checks of R86, in its order: the opcode, RSVD, UNIT of class G, SUB of an opcode without
SUB. The checks on UNIT, SUB and ARG values belong to the command's meaning (log entry 10). -/
def decode (h : Word) : Except CmdErr Instr :=
  match opRow (headerOpc h) with
  | none => .error .opcode
  | some row =>
    if headerRsvd h ≠ 0 then .error .rsvd
    else if row.cls = .G ∧ headerUnit h ≠ 0 then .error .rsvd
    else if row.nsub = 0 ∧ headerSub h ≠ 0 then .error .rsvd
    else .ok (row.build (headerUnit h) (headerSub h))

/-- The OPC column of R88. -/
def Instr.opc : Instr → Byte
  | .nop => 0x00
  | .setSampleRate => 0x01
  | .setMaxBlock => 0x02
  | .render => 0x03
  | .reset => 0x04
  | .clearStatus => 0x05
  | .rampSetTarget => 0x06
  | .rampSetTime => 0x07
  | .rampSetValue => 0x08
  | .oscSetFreq _ => 0x10
  | .oscSetWave _ => 0x11
  | .oscSetPw _ => 0x12
  | .oscSetFmul _ => 0x13
  | .oscSetPoff _ => 0x14
  | .oscSetPhase _ => 0x15
  | .oscSetMode _ => 0x16
  | .oscEnable _ => 0x17
  | .oscStep _ => 0x18
  | .oscTick _ => 0x19
  | .chEnable _ => 0x20
  | .chSetTapSrc _ _ => 0x21
  | .chSetTapGain _ _ => 0x22
  | .chSetOffset _ => 0x23
  | .chSetClip _ => 0x24
  | .chSetFlags _ => 0x25
  | .chSetCoef _ _ => 0x26
  | .chClearHist _ => 0x27
  | .chSetDry _ => 0x28
  | .chSetWet _ => 0x29
  | .chSetGain _ => 0x2A
  | .chSetPan _ => 0x2B
  | .ipEnable _ => 0x30
  | .ipSetSrc _ => 0x31
  | .ipSetDest _ => 0x32
  | .ipSetMin _ => 0x33
  | .ipSetMax _ => 0x34

/-- The header of a command (R84): the one word its encoding has (R83). -/
def encode (i : Instr) : Word := header i.opc i.unit i.sub

/-- A word's four bytes in the window's byte order, lowest address first (R70). -/
def wordBytes (w : Word) : List Byte :=
  [w.extractLsb' 0 8, w.extractLsb' 8 8, w.extractLsb' 16 8, w.extractLsb' 24 8]

/-- The word that four bytes are, lowest address first (R70). -/
def bytesWord : List Byte → Option Word
  | [b0, b1, b2, b3] => some (b3 ++ b2 ++ b1 ++ b0)
  | _ => none

/-- The decoder on bytes: a command is exactly one header word (R83), so other lengths are none. -/
def decodeBytes (bs : List Byte) : Option (Except CmdErr Instr) := (bytesWord bs).map decode

/-- The header word that the opcode table's bits `w` of a row with `nbits` bits stand for: the bits
above `nbits` are 0. -/
def tableWord (nbits w : Nat) : Word := BitVec.ofNat 32 (w % 2 ^ nbits)

/-- The command the decoder reads from a table row's word, laid out as the bus stores it. -/
def decodeTableWord (nbits w : Nat) : Option Instr :=
  match decodeBytes (wordBytes (tableWord nbits w)) with
  | some (.ok i) => some i
  | _ => none

end Sys2Proof
end

