-- ==== Sys2Proof/Machine/State.lean ====
section
/-! DEFINITION. The state of the block (10_state.md), the reasons a step can stop, and the state after
a hardware reset (R195). The hard-wired registers ID, VERSION, CONFIG0 and CONFIG1 (R27 to R30) are not
fields: the bus read answers them. -/

namespace Sys2Proof.Machine

/-- Why a step stops. -/
inductive Fault where
  /-- Raised by a bus event at an offset of `2^16` or more: the window has no such offset (R66).
  Safe: the block does nothing there, the model only stops (log entry 4). -/
  | outsideWindow (offset : Nat)
deriving DecidableEq, Repr

/-- Why an instruction has no meaning. -/
inductive Refusal where
  /-- Raised by an arm of `exec` whose instruction has no meaning yet; no arm is one. Safe. -/
  | notModelled (mnemonic : String)
deriving DecidableEq, Repr

/-- The width of a bus access. Only 32 bits is defined (R71; log entry 13). -/
inductive Width where
  /-- 8 bits -/
  | byte
  /-- 16 bits -/
  | half
  /-- 32 bits -/
  | word
deriving DecidableEq, Repr

/-- What can happen to the block from outside: the accesses its host makes (R72, R73) and the hardware
reset its platform asserts (R195). -/
inductive BusEvent where
  /-- a read of this width at this byte offset of the window -/
  | read (width : Width) (offset : Nat)
  /-- a write of this width at this byte offset of the window -/
  | write (width : Width) (offset : Nat) (value : Word)
  /-- the platform asserts the block's reset -/
  | hardReset
deriving DecidableEq, Repr

/-- What the block answers an access with. -/
inductive BusResponse where
  /-- a normal response to a read, with the word read (R72) -/
  | readData (value : Word)
  /-- a normal response to a write (R73) -/
  | writeDone
  /-- a bus error response to a read, which "returns 0" (R71) -/
  | readError (value : Word)
  /-- a bus error response to a write (R71) -/
  | writeError
deriving DecidableEq, Repr

/-- OUTBUF as the bytes a RENDER has written since the last hardware reset: window offset and byte, at
rising offsets (log entry 7). -/
abbrev Memory := List Host.Cell

/-- The registers of one oscillator (R42). -/
structure Osc where
  /-- FREQ, HZ (R43) -/
  freq : Word
  /-- PINC, PH (R44) -/
  pinc : Word
  /-- PHASE, PH (R45) -/
  phase : Word
  /-- CTRL: WAVE 1:0, MODE 3:2, DBL 4, EN 5 (R46) -/
  ctrl : Word
  /-- PW, FX (R47) -/
  pw : Word
  /-- FMUL, FX (R48) -/
  fmul : Word
  /-- POFF, PH (R49) -/
  poff : Word
  /-- OUT, FX (R50) -/
  out : Word
deriving DecidableEq, Repr

/-- The registers of one channel (R51). -/
structure Channel where
  /-- CTRL: EN 0, CLIP_EN 1, FILT_EN 2, PAN_EN 3 (R52) -/
  ctrl : Word
  /-- TAP_SRC[0..3], an oscillator index or 0xFF (R53) -/
  tapSrc : Vector Word 4
  /-- TAP_GAIN[0..3], FX (R53) -/
  tapGain : Vector Word 4
  /-- OFFSET, FX (R54) -/
  offset : Word
  /-- CLIP, FX (R54) -/
  clip : Word
  /-- B0, FX (R55) -/
  b0 : Word
  /-- B1, FX (R55) -/
  b1 : Word
  /-- B2, FX (R55) -/
  b2 : Word
  /-- A1, FX (R55) -/
  a1 : Word
  /-- A2, FX (R55) -/
  a2 : Word
  /-- X1, FX (R56) -/
  x1 : Word
  /-- X2, FX (R56) -/
  x2 : Word
  /-- Y1, FX (R56) -/
  y1 : Word
  /-- Y2, FX (R56) -/
  y2 : Word
  /-- DRY, FX (R57) -/
  dry : Word
  /-- WET, FX (R57) -/
  wet : Word
  /-- GAIN, FX (R57) -/
  gain : Word
  /-- PAN, FX (R57) -/
  pan : Word
  /-- OUT, FX (R58) -/
  out : Word
deriving DecidableEq, Repr

/-- The registers of one interpolator (R59). -/
structure Interp where
  /-- CTRL: EN 0 (R60) -/
  ctrl : Word
  /-- SRC, an oscillator index (R60) -/
  src : Word
  /-- DEST, 0 or a destination header (R61) -/
  dest : Word
  /-- MIN, FX (R60) -/
  minVal : Word
  /-- MAX, FX (R60) -/
  maxVal : Word
  /-- OUT, FX (R62) -/
  out : Word
deriving DecidableEq, Repr

/-- The state of the block and of what its surroundings are about to do to it. -/
structure State where
  /-- STATUS: ERR 0, ERRCODE 7:4, RANGE 8, SAT 9 (R31) -/
  status : Word
  /-- ERRINFO (R32) -/
  errInfo : Word
  /-- ERRARG (R32) -/
  errArg : Word
  /-- CMD_ARG, the operand latch (R33) -/
  cmdArg : Word
  /-- CMD, the last header written (R34) -/
  cmd : Word
  /-- SAMPLE_RATE, hertz (R35) -/
  sampleRate : Word
  /-- MAX_BLOCK, frames (R36) -/
  maxBlock : Word
  /-- FRAME_COUNT (R37) -/
  frameCount : Word
  /-- RAMP_TARGET, FX (R38) -/
  rampTarget : Word
  /-- RAMP_TIME, milliseconds (R38) -/
  rampTime : Word
  /-- RAMP_LEN, frames (R39) -/
  rampLen : Word
  /-- RAMP_CUR, FX (R40) -/
  rampCur : Word
  /-- RAMP_STEP, FX (R40) -/
  rampStep : Word
  /-- RAMP_CNT, frames left (R40) -/
  rampCnt : Word
  /-- LAST_L, FX (R41) -/
  lastL : Word
  /-- LAST_R, FX (R41) -/
  lastR : Word
  /-- the oscillator bank (R42) -/
  osc : Vector Osc Config.nosc
  /-- the channel bank (R51) -/
  ch : Vector Channel Config.nch
  /-- the interpolator bank (R59) -/
  ip : Vector Interp Config.nip
  /-- OUTBUF (R63) -/
  outbuf : Memory
  /-- the model's own: hardware resets since `State.reset`; picks OUTBUF's free content (log entry 6) -/
  powerOns : Nat
  /-- the model's own: the bus events that are going to happen, oldest first (log entry 1) -/
  events : List BusEvent
  /-- the model's own: the response to the last access (log entry 1) -/
  response : Option BusResponse
deriving DecidableEq, Repr

/-- An oscillator after reset: the reset column of R42. -/
def Osc.reset : Osc where
  freq := 0
  pinc := 0
  phase := 0
  ctrl := 0
  pw := 0x00800000
  fmul := 0x01000000
  poff := 0
  out := 0

/-- A channel after reset: the reset column of R51. -/
def Channel.reset : Channel where
  ctrl := 0
  tapSrc := Vector.replicate 4 0x000000FF
  tapGain := Vector.replicate 4 0
  offset := 0
  clip := 0x00800000
  b0 := 0x01000000
  b1 := 0
  b2 := 0
  a1 := 0
  a2 := 0
  x1 := 0
  x2 := 0
  y1 := 0
  y2 := 0
  dry := 0
  wet := 0x01000000
  gain := 0x01000000
  pan := 0
  out := 0

/-- An interpolator after reset: the reset column of R59. -/
def Interp.reset : Interp where
  ctrl := 0
  src := 0
  dest := 0
  minVal := 0
  maxVal := 0
  out := 0

/-- The block right after a hardware reset (R195, R198): the reset columns of R26, R42, R51 and R59,
nothing written to OUTBUF, and no bus event to come. -/
def State.reset : State where
  status := 0
  errInfo := 0
  errArg := 0
  cmdArg := 0
  cmd := 0
  sampleRate := 44100
  maxBlock := BitVec.ofNat 32 (min 512 Config.outbufCap)
  frameCount := 0
  rampTarget := 0
  rampTime := 0
  rampLen := 0
  rampCur := 0
  rampStep := 0
  rampCnt := 0
  lastL := 0
  lastR := 0
  osc := Vector.replicate Config.nosc Osc.reset
  ch := Vector.replicate Config.nch Channel.reset
  ip := Vector.replicate Config.nip Interp.reset
  outbuf := []
  powerOns := 0
  events := []
  response := none

end Sys2Proof.Machine
end

