-- ==== Sys2Proof/Machine/Operands.lean ====
section
/-! DEFINITION. Operands: bit fields of a word, the number formats and arithmetic primitives of R10 to
R17, the fields of the CTRL registers (R46, R52, R60), and which operand values are legal (R88, R145). -/

namespace Sys2Proof.Machine

/-! ### Bit fields (R19) -/

/-- `w` with the field of `len` bits from bit `lo` up replaced by `v`. -/
def setBits {len : Nat} (w : Word) (lo : Nat) (v : BitVec len) : Word :=
  (w &&& ~~~((BitVec.allOnes len).setWidth 32 <<< lo)) ||| (v.setWidth 32 <<< lo)

/-- A flag as a one-bit field. -/
def bit (b : Bool) : BitVec 1 := BitVec.ofBool b

/-! ### Formats and primitives -/

/-- An FX word's signed integer (R10, R12). -/
def fx (w : Word) : Int := w.toInt

/-- The FX word of an integer in FX range (R17); an integer outside it is taken modulo `2^32`, which
no rule's result needs (log entry 8). -/
def toFx (v : Int) : Word := BitVec.ofInt 32 v

/-- The integer of FX 1.0, `2^24` (R10). -/
def fxOne : Int := 0x1000000

/-- The integer of FX 0.5, `2^23` (R10). -/
def fxHalf : Int := 0x800000

/-- `asr(v, s)`: floor of `v / 2^s` (R13). -/
def asr (v : Int) (s : Nat) : Int := v / ((2 ^ s : Nat) : Int)

/-- `sat32(v)`: `v` clamped to the signed 32-bit range (R14). -/
def sat32 (v : Int) : Int := max (-0x80000000) (min 0x7FFFFFFF v)

/-- sat32 changes its argument (R14). -/
def saturates (v : Int) : Bool := decide (v < -0x80000000) || decide (0x7FFFFFFF < v)

/-- The exact product of fxmul before its saturation: `asr(a*b, 24)` (R15). -/
def fxProduct (a b : Int) : Int := asr (a * b) 24

/-- `fxmul(a, b)` (R15). -/
def fxmul (a b : Int) : Int := sat32 (fxProduct a b)

/-- `trunc_div(a, b)`: the quotient rounded toward zero (R16). -/
def truncDiv (a b : Int) : Int := Int.tdiv a b

/-- `floor_div(a, b)` on naturals (R16). -/
def floorDiv (a b : Nat) : Nat := a / b

/-- `v mod 2^32` as a word (R16). -/
def mod32 (v : Int) : Word := BitVec.ofInt 32 v

/-- An integer that is not in `[0, 2^32)` (R100, R101). -/
def outOfRange32 (v : Int) : Bool := decide (v < 0) || decide (0x100000000 ≤ v)

/-! ### Fields of the CTRL registers -/

/-- CTRL.WAVE (R46): 0 SINE, 1 SQUARE, 2 TRIANGLE, 3 SAW. -/
def Osc.wave (o : Osc) : BitVec 2 := o.ctrl.extractLsb' 0 2
/-- CTRL.MODE (R46): 0 AUDIO, 1 LFO_ONCE, 2 LFO_PER_READ. -/
def Osc.mode (o : Osc) : BitVec 2 := o.ctrl.extractLsb' 2 2
/-- CTRL.DBL (R46). -/
def Osc.dbl (o : Osc) : Bool := o.ctrl.getLsbD 4
/-- CTRL.EN (R46). -/
def Osc.en (o : Osc) : Bool := o.ctrl.getLsbD 5

/-- MODE value AUDIO (R46). -/
def modeAudio : BitVec 2 := 0
/-- MODE value LFO_ONCE (R46). -/
def modeLfoOnce : BitVec 2 := 1
/-- MODE value LFO_PER_READ (R46). -/
def modeLfoPerRead : BitVec 2 := 2

/-- CTRL.EN (R52). -/
def Channel.en (c : Channel) : Bool := c.ctrl.getLsbD 0
/-- CTRL.CLIP_EN (R52). -/
def Channel.clipEn (c : Channel) : Bool := c.ctrl.getLsbD 1
/-- CTRL.FILT_EN (R52). -/
def Channel.filtEn (c : Channel) : Bool := c.ctrl.getLsbD 2
/-- CTRL.PAN_EN (R52). -/
def Channel.panEn (c : Channel) : Bool := c.ctrl.getLsbD 3

/-- CTRL.EN (R60). -/
def Interp.en (i : Interp) : Bool := i.ctrl.getLsbD 0

/-! ### Legal operands: the "ARG legal" column of R88 -/

/-- `ARG <= 1`. -/
def enableLegal (a : Word) : Bool := a.toNat ≤ 1

/-- `ARG != 0`, for SET_SAMPLE_RATE. -/
def sampleRateLegal (a : Word) : Bool := a.toNat ≠ 0

/-- `1 <= ARG <= OUTBUF_CAP`, for SET_MAX_BLOCK. -/
def maxBlockLegal (a : Word) : Bool := 1 ≤ a.toNat && a.toNat ≤ Config.outbufCap

/-- `ARG <= MAX_BLOCK`, for RENDER. -/
def renderLegal (a maxBlock : Word) : Bool := a.toNat ≤ maxBlock.toNat

/-- `ARG[31:10] = 0, ARG[7:1] = 0`, for CLEAR_STATUS. -/
def clearStatusLegal (a : Word) : Bool := a.extractLsb' 10 22 == 0 && a.extractLsb' 1 7 == 0

/-- `ARG <= 3`, for OSC_SET_WAVE. -/
def waveLegal (a : Word) : Bool := a.toNat ≤ 3

/-- `ARG[31:3] = 0 and ARG[1:0] != 3`, for OSC_SET_MODE. -/
def modeLegal (a : Word) : Bool := a.extractLsb' 3 29 == 0 && a.extractLsb' 0 2 != 3

/-- `ARG < NOSC or ARG = 0xFF`, for CH_SET_TAP_SRC. -/
def tapSrcLegal (a : Word) : Bool := a.toNat < Config.nosc || a.toNat == 0xFF

/-- `ARG[31:3] = 0`, for CH_SET_FLAGS. -/
def flagsLegal (a : Word) : Bool := a.extractLsb' 3 29 == 0

/-- `ARG < NOSC`, for IP_SET_SRC. -/
def srcLegal (a : Word) : Bool := a.toNat < Config.nosc

/-- A valid destination (R145): 0, or a listed opcode with RSVD 0 and UNIT and SUB in range. -/
def destLegal (d : Word) : Bool :=
  d == 0 || (headerRsvd d == 0 &&
    match (headerOpc d).toNat with
    | 0x12 | 0x13 | 0x14 => (headerUnit d).toNat < Config.nosc && headerSub d == 0
    | 0x22 => (headerUnit d).toNat < Config.nch && (headerSub d).toNat < 4
    | 0x26 => (headerUnit d).toNat < Config.nch && (headerSub d).toNat < 5
    | 0x23 | 0x24 | 0x28 | 0x29 | 0x2A | 0x2B =>
      (headerUnit d).toNat < Config.nch && headerSub d == 0
    | 0x33 | 0x34 => (headerUnit d).toNat < Config.nip && headerSub d == 0
    | _ => false)

end Sys2Proof.Machine
end

