-- ==== Sys2Proof/Machine/Flags.lean ====
section
/-! DEFINITION. The flags of the block: the fields of STATUS (R31, R65) and what sets them. All are
sticky: nothing here clears one but `clearStatus`. -/

namespace Sys2Proof.Machine

/-- STATUS.ERR (R31). -/
def State.err (s : State) : Bool := s.status.getLsbD 0
/-- STATUS.ERRCODE (R31). -/
def State.errCode (s : State) : BitVec 4 := s.status.extractLsb' 4 4
/-- STATUS.RANGE (R31). -/
def State.rangeFlag (s : State) : Bool := s.status.getLsbD 8
/-- STATUS.SAT (R31). -/
def State.satFlag (s : State) : Bool := s.status.getLsbD 9

/-- STATUS.RANGE <- 1 where the condition holds (R100, R101); it is never cleared here. -/
def State.noteRange (s : State) (b : Bool) : State :=
  if b then { s with status := setBits s.status 8 (bit true) } else s

/-- STATUS.SAT <- 1 where a sat32 changed its argument (R14); it is never cleared here. -/
def State.noteSat (s : State) (b : Bool) : State :=
  if b then { s with status := setBits s.status 9 (bit true) } else s

/-- The code that STATUS.ERRCODE records for an error (R179). -/
def errCodeOf : CmdErr → BitVec 4
  | .opcode => 1
  | .rsvd => 2
  | .unit => 3
  | .sub => 4
  | .arg => 5

/-- STATUS after a first failure: ERR <- 1 and ERRCODE <- code (R181). -/
def failedStatus (status : Word) (e : CmdErr) : Word :=
  setBits (setBits status 0 (bit true)) 4 (errCodeOf e)

/-- CLEAR_STATUS's Pseudocode (R177): bit 0 of the mask clears ERR, ERRCODE, ERRINFO and ERRARG, bit 8
RANGE and bit 9 SAT. -/
def State.clearStatus (s : State) (mask : Word) : State :=
  let s := if mask.getLsbD 0 then
      { s with
        status := setBits (setBits s.status 0 (bit false)) 4 (0 : BitVec 4)
        errInfo := 0
        errArg := 0 }
    else s
  let s := if mask.getLsbD 8 then { s with status := setBits s.status 8 (bit false) } else s
  if mask.getLsbD 9 then { s with status := setBits s.status 9 (bit false) } else s

end Sys2Proof.Machine
end

