-- ==== Sys2Proof/Machine/Ops.lean ====
section
/-! DEFINITION. The named operations over the state: the output buffer's memory, the bus read of the
window (R67, R72), a failing command (R181: the block's one way of taking an exception; there is no
return from it, R184), the checks that every command shares (R86), and writing one unit. -/

namespace Sys2Proof.Machine

/-- What executing a command answers. -/
abbrev Result := Host.Outcome State Fault Refusal

/-! ### OUTBUF's memory (R63, R70; log entry 7) -/

/-- The byte written at an offset; none where no RENDER has written since the hardware reset. -/
def Memory.byteAt : Memory → Nat → Option Byte
  | [], _ => none
  | (k, b) :: m, a => if a = k then some b else Memory.byteAt m a

/-- The memory after writing one byte, its offsets still rising. -/
def Memory.setByte : Memory → Nat → Byte → Memory
  | [], a, v => [(a, v)]
  | (k, b) :: m, a, v =>
    if a < k then (a, v) :: (k, b) :: m
    else if a = k then (a, v) :: m
    else (k, b) :: Memory.setByte m a v

/-- Bytes written from an offset up. -/
def Memory.setBytes (m : Memory) (a : Nat) : List Byte → Memory
  | [] => m
  | b :: bs => Memory.setBytes (Memory.setByte m a b) (a + 1) bs

/-- A word written at an offset, little-endian (R70). -/
def Memory.setWord (m : Memory) (a : Nat) (w : Word) : Memory := Memory.setBytes m a (wordBytes w)

/-- The canonical form: offsets strictly rising. An offset without an entry has not been written, which
no entry can say, so equal contents are equal lists. -/
abbrev Memory.wf (m : Memory) : Prop := m.Pairwise (fun x y => x.1 < y.1)

/-- The offset of OUTBUF[i].L (R63); OUTBUF[i].R is 4 above it. -/
def outbufOffset (i : Nat) : Nat := 0x8000 + 8 * i

/-- A byte of OUTBUF: the byte last written there, or the free value of the last hardware reset
(R63, R197). DESIGN CHOICE (log entry 6): the free value depends on the count of hardware resets and the
offset alone, not on which instance this is. -/
def State.outbufByte (s : State) (a : Nat) : Byte :=
  (Memory.byteAt s.outbuf a).getD (Config.outbufPowerOn s.powerOns a)

/-- A word of OUTBUF, little-endian (R70). -/
def State.outbufWord (s : State) (a : Nat) : Word :=
  s.outbufByte (a + 3) ++ s.outbufByte (a + 2) ++ s.outbufByte (a + 1) ++ s.outbufByte a

/-- `OUTBUF[i].L <- l; OUTBUF[i].R <- r` (R170). There is no entry at or above OUTBUF_CAP; no
RENDER that passes its ARG check asks for one (log entry 8). -/
def State.writeFrame (s : State) (i : Nat) (l r : Word) : State :=
  if i < Config.outbufCap then
    { s with outbuf := Memory.setWord (Memory.setWord s.outbuf (outbufOffset i) l) (outbufOffset i + 4) r }
  else s

/-! ### The bus read (R67, R72) -/

/-- ID (R27). -/
def idWord : Word := 0x57494331
/-- VERSION (R28). -/
def versionWord : Word := 0x00010000
/-- CONFIG0: NOSC, NCH and NIP (R29). -/
def config0Word : Word :=
  (0 : Byte) ++ BitVec.ofNat 8 Config.nip ++ BitVec.ofNat 8 Config.nch ++ BitVec.ofNat 8 Config.nosc
/-- CONFIG1: OUTBUF_CAP in bits 12:0 (R30). -/
def config1Word : Word := (0 : BitVec 19) ++ BitVec.ofNat 13 Config.outbufCap

/-- A global register by offset (R26); the rest of the range is reserved and reads 0 (R68). -/
def State.readGlobal (s : State) (a : Nat) : Word :=
  match a with
  | 0x000 => idWord
  | 0x004 => versionWord
  | 0x008 => config0Word
  | 0x00C => config1Word
  | 0x010 => s.status
  | 0x014 => s.errInfo
  | 0x018 => s.errArg
  | 0x01C => s.cmdArg
  | 0x020 => s.cmd
  | 0x024 => s.sampleRate
  | 0x028 => s.maxBlock
  | 0x02C => s.frameCount
  | 0x030 => s.rampTarget
  | 0x034 => s.rampTime
  | 0x038 => s.rampLen
  | 0x03C => s.rampCur
  | 0x040 => s.rampStep
  | 0x044 => s.rampCnt
  | 0x048 => s.lastL
  | 0x04C => s.lastR
  | _ => 0

/-- An oscillator register by its offset in the group (R42). -/
def Osc.read (o : Osc) (k : Nat) : Word :=
  match k with
  | 0x00 => o.freq
  | 0x04 => o.pinc
  | 0x08 => o.phase
  | 0x0C => o.ctrl
  | 0x10 => o.pw
  | 0x14 => o.fmul
  | 0x18 => o.poff
  | 0x1C => o.out
  | _ => 0

/-- A channel register by its offset in the group (R51); +0x64 up is reserved. -/
def Channel.read (c : Channel) (k : Nat) : Word :=
  match k with
  | 0x00 => c.ctrl
  | 0x04 => c.tapSrc[0]
  | 0x08 => c.tapSrc[1]
  | 0x0C => c.tapSrc[2]
  | 0x10 => c.tapSrc[3]
  | 0x14 => c.tapGain[0]
  | 0x18 => c.tapGain[1]
  | 0x1C => c.tapGain[2]
  | 0x20 => c.tapGain[3]
  | 0x24 => c.offset
  | 0x28 => c.clip
  | 0x2C => c.b0
  | 0x30 => c.b1
  | 0x34 => c.b2
  | 0x38 => c.a1
  | 0x3C => c.a2
  | 0x40 => c.x1
  | 0x44 => c.x2
  | 0x48 => c.y1
  | 0x4C => c.y2
  | 0x50 => c.dry
  | 0x54 => c.wet
  | 0x58 => c.gain
  | 0x5C => c.pan
  | 0x60 => c.out
  | _ => 0

/-- An interpolator register by its offset in the group (R59); +0x18 and +0x1C are reserved. -/
def Interp.read (i : Interp) (k : Nat) : Word :=
  match k with
  | 0x00 => i.ctrl
  | 0x04 => i.src
  | 0x08 => i.dest
  | 0x0C => i.minVal
  | 0x10 => i.maxVal
  | 0x14 => i.out
  | _ => 0

/-- The word of the window at an offset (R67): a register, a word of OUTBUF, or 0 where the offset is
reserved (R68). A read changes nothing (R72). -/
def State.readWord (s : State) (a : Nat) : Word :=
  if a < 0x1000 then s.readGlobal a
  else if a < 0x4000 then
    if h : (a - 0x1000) / 0x20 < Config.nosc then s.osc[(a - 0x1000) / 0x20].read ((a - 0x1000) % 0x20)
    else 0
  else if a < 0x6000 then
    if h : (a - 0x4000) / 0x80 < Config.nch then s.ch[(a - 0x4000) / 0x80].read ((a - 0x4000) % 0x80)
    else 0
  else if a < 0x8000 then
    if h : (a - 0x6000) / 0x20 < Config.nip then s.ip[(a - 0x6000) / 0x20].read ((a - 0x6000) % 0x20)
    else 0
  else if a < 0x8000 + 8 * Config.outbufCap then s.outbufWord a
  else 0

/-- The byte of the window at an offset, as R70's byte order has it. -/
def State.readByte (s : State) (a : Nat) : Byte :=
  (s.readWord (a - a % 4)).extractLsb' (8 * (a % 4)) 8

/-! ### A failing command (R181, R182) -/

/-- CmdError(code) for the command with header `h`: the first error since the last clear is recorded,
and nothing else changes. -/
def State.cmdError (s : State) (e : CmdErr) (h : Word) : State :=
  if s.err then s
  else { s with status := failedStatus s.status e, errInfo := h, errArg := s.cmdArg }

/-! ### The checks of R86 on UNIT, SUB and ARG -/

/-- ERR_UNIT unless UNIT is below the class's limit. -/
def withUnit (limit : Nat) (h : Word) (unit : Byte) (s : State) (k : Fin limit → Result) : Result :=
  if hu : unit.toNat < limit then k ⟨unit.toNat, hu⟩ else .next (s.cmdError .unit h)

/-- ERR_SUB unless SUB is below nsub. -/
def withSub (nsub : Nat) (h : Word) (sub : Byte) (s : State) (k : Fin nsub → Result) : Result :=
  if hs : sub.toNat < nsub then k ⟨sub.toNat, hs⟩ else .next (s.cmdError .sub h)

/-- ERR_ARG unless ARG is legal. -/
def withArg (legal : Bool) (h : Word) (s : State) (done : State) : Result :=
  .next (if legal then done else s.cmdError .arg h)

/-! ### One unit of a bank -/

/-- Oscillator `n` changed by `f`. -/
def State.modifyOsc (s : State) (n : Fin Config.nosc) (f : Osc → Osc) : State :=
  { s with osc := s.osc.set n (f s.osc[n]) }

/-- Channel `c` changed by `f`. -/
def State.modifyCh (s : State) (c : Fin Config.nch) (f : Channel → Channel) : State :=
  { s with ch := s.ch.set c (f s.ch[c]) }

/-- Interpolator `k` changed by `f`. -/
def State.modifyIp (s : State) (k : Fin Config.nip) (f : Interp → Interp) : State :=
  { s with ip := s.ip.set k (f s.ip[k]) }

/-- `for u in 0 .. n-1`: each unit in ascending order, each on the state the one before left (R20). -/
def forUnits (n : Nat) (f : Fin n → State → State) (s : State) : State :=
  (List.finRange n).foldl (fun s u => f u s) s

end Sys2Proof.Machine
end

