-- ==== Sys2Proof/Machine/ChannelUnit.lean ====
section
/-! DEFINITION. The channels and the IIR biquad filter core (41_channel_filter.md), and the twelve
channel commands. -/

namespace Sys2Proof.Machine

/-! ### The channel computation (R122 to R127) -/

/-- OSC[i].OUT as an integer, for the index a tap or an interpolator holds. The commands store only
indices of oscillators (R53, R60); an index that names none reads 0 (log entry 8). -/
def State.oscOut (s : State) (i : Word) : Int :=
  if h : i.toNat < Config.nosc then fx s.osc[i.toNat].out else 0

/-- What tap `t` adds to the sum (R123): nothing when TAP_SRC is 0xFF. -/
def Channel.tapTerm (c : Channel) (outs : Word → Int) (t : Fin 4) : Int :=
  if c.tapSrc[t] = 0xFF then 0 else fx c.tapGain[t] * outs c.tapSrc[t]

/-- The exact accumulator of the tap sum (R123). -/
def Channel.tapAcc (c : Channel) (outs : Word → Int) : Int :=
  fx c.offset * 2 ^ 24 + c.tapTerm outs 0 + c.tapTerm outs 1 + c.tapTerm outs 2 + c.tapTerm outs 3

/-- The upper clip (R124). -/
def Channel.clipped (c : Channel) (x : Int) : Int :=
  if c.clipEn && decide (fx c.clip < x) then fx c.clip else x

/-- The exact accumulator of the biquad in direct form I (R125). -/
def Channel.biquadAcc (c : Channel) (x : Int) : Int :=
  fx c.b0 * x + fx c.b1 * fx c.x1 + fx c.b2 * fx c.x2 - fx c.a1 * fx c.y1 - fx c.a2 * fx c.y2

/-- The exact accumulator of the dry/wet crossfade (R127). -/
def Channel.crossfadeAcc (c : Channel) (x y : Int) : Int := fx c.dry * x + fx c.wet * y

/-- The values of one channel in one frame, each before its saturation where it has one. -/
structure ChannelFrame where
  /-- the tap sum before sat32 (R123) -/
  xRaw : Int
  /-- the channel input after the clip (R124) -/
  x : Int
  /-- the filter output before sat32; the input itself in bypass (R125, R126) -/
  yRaw : Int
  /-- the crossfade before sat32 (R127) -/
  wRaw : Int
  /-- the gain product before sat32 (R127) -/
  vRaw : Int

/-- The filter's output, or the input where the filter is bypassed (R125, R126). -/
def ChannelFrame.y (f : ChannelFrame) : Int := sat32 f.yRaw
/-- The channel's output v (R127). -/
def ChannelFrame.v (f : ChannelFrame) : Int := sat32 f.vRaw
/-- Some sat32 of the computation changed its argument (R14). The bypassed y is a value already in FX
range, which sat32 leaves (R126). -/
def ChannelFrame.saturated (f : ChannelFrame) : Bool :=
  saturates f.xRaw || saturates f.yRaw || saturates f.wRaw || saturates f.vRaw

/-- The channel computation of R122 on the oscillators' outputs. -/
def Channel.compute (c : Channel) (outs : Word → Int) : ChannelFrame :=
  let xRaw := asr (c.tapAcc outs) 24
  let x := c.clipped (sat32 xRaw)
  let yRaw := if c.filtEn then asr (c.biquadAcc x) 24 else x
  let wRaw := asr (c.crossfadeAcc x (sat32 yRaw)) 24
  let vRaw := fxProduct (fx c.gain) (sat32 wRaw)
  { xRaw, x, yRaw, wRaw, vRaw }

/-- The channel's registers after a frame: the history shifts where the filter ran (R125), is frozen in
bypass (R126), and OUT takes v (R127). -/
def Channel.store (c : Channel) (f : ChannelFrame) : Channel :=
  let c := if c.filtEn then
      { c with x2 := c.x1, x1 := toFx f.x, y2 := c.y1, y1 := toFx f.y }
    else c
  { c with out := toFx f.v }

/-- RunChannel(c) of R164. -/
def State.runChannel (s : State) (c : Fin Config.nch) : State :=
  let f := s.ch[c].compute s.oscOut
  (s.modifyCh c fun ch => ch.store f).noteSat f.saturated

/-- RunChannel(c) where the channel is enabled (R122, R168). -/
def State.runChannelIf (s : State) (c : Fin Config.nch) : State :=
  if s.ch[c].en then s.runChannel c else s

/-! ### The register writes of the commands: their Pseudocode lines -/

/-- `CH[c].CTRL.EN <- ARG[0]` (R129). -/
def State.writeChEnable (s : State) (c : Fin Config.nch) (a : Word) : State :=
  s.modifyCh c fun ch => { ch with ctrl := setBits ch.ctrl 0 (a.extractLsb' 0 1) }

/-- `CH[c].TAP_SRC[t] <- ARG` (R130). -/
def State.writeChTapSrc (s : State) (c : Fin Config.nch) (t : Fin 4) (a : Word) : State :=
  s.modifyCh c fun ch => { ch with tapSrc := ch.tapSrc.set t a }

/-- `CH[c].TAP_GAIN[t] <- ARG` (R131). -/
def State.writeChTapGain (s : State) (c : Fin Config.nch) (t : Fin 4) (a : Word) : State :=
  s.modifyCh c fun ch => { ch with tapGain := ch.tapGain.set t a }

/-- `CH[c].OFFSET <- ARG` (R132). -/
def State.writeChOffset (s : State) (c : Fin Config.nch) (a : Word) : State :=
  s.modifyCh c fun ch => { ch with offset := a }

/-- `CH[c].CLIP <- ARG` (R133). -/
def State.writeChClip (s : State) (c : Fin Config.nch) (a : Word) : State :=
  s.modifyCh c fun ch => { ch with clip := a }

/-- CLIP_EN, FILT_EN and PAN_EN, CTRL bits 1 to 3, from ARG bits 0 to 2 (R134). -/
def State.writeChFlags (s : State) (c : Fin Config.nch) (a : Word) : State :=
  s.modifyCh c fun ch => { ch with ctrl := setBits ch.ctrl 1 (a.extractLsb' 0 3) }

/-- One biquad coefficient, in the order B0, B1, B2, A1, A2 (R135). -/
def State.writeChCoef (s : State) (c : Fin Config.nch) (k : Fin 5) (a : Word) : State :=
  s.modifyCh c fun ch =>
    match k with
    | 0 => { ch with b0 := a }
    | 1 => { ch with b1 := a }
    | 2 => { ch with b2 := a }
    | 3 => { ch with a1 := a }
    | 4 => { ch with a2 := a }

/-- `X1 <- 0; X2 <- 0; Y1 <- 0; Y2 <- 0` (R136). -/
def State.clearChHist (s : State) (c : Fin Config.nch) : State :=
  s.modifyCh c fun ch => { ch with x1 := 0, x2 := 0, y1 := 0, y2 := 0 }

/-- `CH[c].DRY <- ARG` (R137). -/
def State.writeChDry (s : State) (c : Fin Config.nch) (a : Word) : State :=
  s.modifyCh c fun ch => { ch with dry := a }

/-- `CH[c].WET <- ARG` (R138). -/
def State.writeChWet (s : State) (c : Fin Config.nch) (a : Word) : State :=
  s.modifyCh c fun ch => { ch with wet := a }

/-- `CH[c].GAIN <- ARG` (R139). -/
def State.writeChGain (s : State) (c : Fin Config.nch) (a : Word) : State :=
  s.modifyCh c fun ch => { ch with gain := a }

/-- `CH[c].PAN <- ARG` (R140). -/
def State.writeChPan (s : State) (c : Fin Config.nch) (a : Word) : State :=
  s.modifyCh c fun ch => { ch with pan := a }

/-! ### The commands -/

/-- CH_ENABLE (R129). -/
def execChEnable (unit : Byte) (s : State) : Result :=
  withUnit Config.nch (encode (.chEnable unit)) unit s fun c =>
    withArg (enableLegal s.cmdArg) (encode (.chEnable unit)) s (s.writeChEnable c s.cmdArg)

/-- CH_SET_TAP_SRC (R130). -/
def execChSetTapSrc (unit sub : Byte) (s : State) : Result :=
  withUnit Config.nch (encode (.chSetTapSrc unit sub)) unit s fun c =>
    withSub 4 (encode (.chSetTapSrc unit sub)) sub s fun t =>
      withArg (tapSrcLegal s.cmdArg) (encode (.chSetTapSrc unit sub)) s (s.writeChTapSrc c t s.cmdArg)

/-- CH_SET_TAP_GAIN (R131). -/
def execChSetTapGain (unit sub : Byte) (s : State) : Result :=
  withUnit Config.nch (encode (.chSetTapGain unit sub)) unit s fun c =>
    withSub 4 (encode (.chSetTapGain unit sub)) sub s fun t => .next (s.writeChTapGain c t s.cmdArg)

/-- CH_SET_OFFSET (R132). -/
def execChSetOffset (unit : Byte) (s : State) : Result :=
  withUnit Config.nch (encode (.chSetOffset unit)) unit s fun c => .next (s.writeChOffset c s.cmdArg)

/-- CH_SET_CLIP (R133). -/
def execChSetClip (unit : Byte) (s : State) : Result :=
  withUnit Config.nch (encode (.chSetClip unit)) unit s fun c => .next (s.writeChClip c s.cmdArg)

/-- CH_SET_FLAGS (R134). -/
def execChSetFlags (unit : Byte) (s : State) : Result :=
  withUnit Config.nch (encode (.chSetFlags unit)) unit s fun c =>
    withArg (flagsLegal s.cmdArg) (encode (.chSetFlags unit)) s (s.writeChFlags c s.cmdArg)

/-- CH_SET_COEF (R135). -/
def execChSetCoef (unit sub : Byte) (s : State) : Result :=
  withUnit Config.nch (encode (.chSetCoef unit sub)) unit s fun c =>
    withSub 5 (encode (.chSetCoef unit sub)) sub s fun k => .next (s.writeChCoef c k s.cmdArg)

/-- CH_CLEAR_HIST (R136). -/
def execChClearHist (unit : Byte) (s : State) : Result :=
  withUnit Config.nch (encode (.chClearHist unit)) unit s fun c => .next (s.clearChHist c)

/-- CH_SET_DRY (R137). -/
def execChSetDry (unit : Byte) (s : State) : Result :=
  withUnit Config.nch (encode (.chSetDry unit)) unit s fun c => .next (s.writeChDry c s.cmdArg)

/-- CH_SET_WET (R138). -/
def execChSetWet (unit : Byte) (s : State) : Result :=
  withUnit Config.nch (encode (.chSetWet unit)) unit s fun c => .next (s.writeChWet c s.cmdArg)

/-- CH_SET_GAIN (R139). -/
def execChSetGain (unit : Byte) (s : State) : Result :=
  withUnit Config.nch (encode (.chSetGain unit)) unit s fun c => .next (s.writeChGain c s.cmdArg)

/-- CH_SET_PAN (R140). -/
def execChSetPan (unit : Byte) (s : State) : Result :=
  withUnit Config.nch (encode (.chSetPan unit)) unit s fun c => .next (s.writeChPan c s.cmdArg)

end Sys2Proof.Machine
end

