-- ==== Sys2Proof/Machine/Oscillator.lean ====
section
/-! DEFINITION. The oscillators and LFOs (40_oscillator.md): increment, advance, waveforms, firing, and
the ten oscillator commands. -/

namespace Sys2Proof.Machine

/-! ### The increment, the advance and the evaluation (R100 to R108) -/

/-- The quotient q of R100: the frequency over the sample rate as a fraction of `2^32`, unwrapped. -/
def pincQuotient (freq rate : Word) : Nat := floorDiv (freq.toNat * 2 ^ 16) rate.toNat

/-- Recompute(n) of R100. -/
def State.recompute (s : State) (n : Fin Config.nosc) : State :=
  let q := pincQuotient s.osc[n].freq s.sampleRate
  (s.modifyOsc n fun o => { o with pinc := mod32 q }).noteRange (outOfRange32 q)

/-- The effective increment d of R101: PINC times FMUL, rounded toward minus infinity. -/
def Osc.increment (o : Osc) : Int := asr ((o.pinc.toNat : Int) * fx o.fmul) 24

/-- PHASE after one advance (R101). -/
def Osc.advance (o : Osc) : Osc := { o with phase := mod32 ((o.phase.toNat : Int) + o.increment) }

/-- Advance(n) of R101. -/
def State.advance (s : State) (n : Fin Config.nosc) : State :=
  (s.modifyOsc n Osc.advance).noteRange (outOfRange32 s.osc[n].increment)

/-- Sine (R105): the open parameter SINE (log entry 5). -/
def sineWave (q : Word) : Int := Config.sine q

/-- Square (R106). -/
def squareWave (q : Word) (pw : Int) : Int :=
  if (q.toNat : Int) ≤ pw * 2 ^ 8 then fxHalf else -fxHalf

/-- Saw (R108). -/
def sawWave (q : Word) : Int := ((q.toNat / 2 ^ 8 : Nat) : Int) - fxHalf

/-- Triangle (R107): with h of R107 the saw's value, `|h| - 2^23`. -/
def triangleWave (q : Word) : Int := (Int.natAbs (sawWave q) : Int) - fxHalf

/-- The lookup phase of R104: PHASE plus POFF, modulo one cycle. -/
def Osc.lookupPhase (o : Osc) : Word := o.phase + o.poff

/-- The sample that CTRL.WAVE selects (R104). -/
def Osc.sample (o : Osc) : Int :=
  if o.wave = 0 then sineWave o.lookupPhase
  else if o.wave = 1 then squareWave o.lookupPhase (fx o.pw)
  else if o.wave = 2 then triangleWave o.lookupPhase
  else sawWave o.lookupPhase

/-- Evaluate (R104): OUT takes the sample; PHASE stays. -/
def Osc.evaluate (o : Osc) : Osc := { o with out := toFx o.sample }

/-- Evaluate(n) of R104. -/
def State.evaluate (s : State) (n : Fin Config.nosc) : State := s.modifyOsc n Osc.evaluate

/-- Fire(n) of R103: advance, advance again if DBL, evaluate. -/
def State.fire (s : State) (n : Fin Config.nosc) : State :=
  let s := s.advance n
  let s := if s.osc[n].dbl then s.advance n else s
  s.evaluate n

/-- Fire(n) where the unit is enabled in this mode (R110, R165, R167). -/
def State.fireIf (s : State) (mode : BitVec 2) (n : Fin Config.nosc) : State :=
  if s.osc[n].en && s.osc[n].mode == mode then s.fire n else s

/-! ### The register writes of the commands: their Pseudocode lines -/

/-- `OSC[n].FREQ <- ARG; Recompute(n)` (R112). -/
def State.writeOscFreq (s : State) (n : Fin Config.nosc) (a : Word) : State :=
  (s.modifyOsc n fun o => { o with freq := a }).recompute n

/-- `OSC[n].CTRL.WAVE <- ARG[1:0]` (R113). -/
def State.writeOscWave (s : State) (n : Fin Config.nosc) (a : Word) : State :=
  s.modifyOsc n fun o => { o with ctrl := setBits o.ctrl 0 (a.extractLsb' 0 2) }

/-- `OSC[n].PW <- ARG` (R114). -/
def State.writeOscPw (s : State) (n : Fin Config.nosc) (a : Word) : State :=
  s.modifyOsc n fun o => { o with pw := a }

/-- `OSC[n].FMUL <- ARG` (R115). -/
def State.writeOscFmul (s : State) (n : Fin Config.nosc) (a : Word) : State :=
  s.modifyOsc n fun o => { o with fmul := a }

/-- `OSC[n].POFF <- ARG` (R116). -/
def State.writeOscPoff (s : State) (n : Fin Config.nosc) (a : Word) : State :=
  s.modifyOsc n fun o => { o with poff := a }

/-- `OSC[n].PHASE <- ARG` (R117). -/
def State.writeOscPhase (s : State) (n : Fin Config.nosc) (a : Word) : State :=
  s.modifyOsc n fun o => { o with phase := a }

/-- `OSC[n].CTRL.MODE <- ARG[1:0]; OSC[n].CTRL.DBL <- ARG[2]` (R118). -/
def State.writeOscMode (s : State) (n : Fin Config.nosc) (a : Word) : State :=
  s.modifyOsc n fun o =>
    { o with ctrl := setBits (setBits o.ctrl 2 (a.extractLsb' 0 2)) 4 (a.extractLsb' 2 1) }

/-- `OSC[n].CTRL.EN <- ARG[0]` (R119). -/
def State.writeOscEnable (s : State) (n : Fin Config.nosc) (a : Word) : State :=
  s.modifyOsc n fun o => { o with ctrl := setBits o.ctrl 5 (a.extractLsb' 0 1) }

/-! ### The commands -/

/-- OSC_SET_FREQ (R112). -/
def execOscSetFreq (unit : Byte) (s : State) : Result :=
  withUnit Config.nosc (encode (.oscSetFreq unit)) unit s fun n => .next (s.writeOscFreq n s.cmdArg)

/-- OSC_SET_WAVE (R113). -/
def execOscSetWave (unit : Byte) (s : State) : Result :=
  withUnit Config.nosc (encode (.oscSetWave unit)) unit s fun n =>
    withArg (waveLegal s.cmdArg) (encode (.oscSetWave unit)) s (s.writeOscWave n s.cmdArg)

/-- OSC_SET_PW (R114). -/
def execOscSetPw (unit : Byte) (s : State) : Result :=
  withUnit Config.nosc (encode (.oscSetPw unit)) unit s fun n => .next (s.writeOscPw n s.cmdArg)

/-- OSC_SET_FMUL (R115). -/
def execOscSetFmul (unit : Byte) (s : State) : Result :=
  withUnit Config.nosc (encode (.oscSetFmul unit)) unit s fun n => .next (s.writeOscFmul n s.cmdArg)

/-- OSC_SET_POFF (R116). -/
def execOscSetPoff (unit : Byte) (s : State) : Result :=
  withUnit Config.nosc (encode (.oscSetPoff unit)) unit s fun n => .next (s.writeOscPoff n s.cmdArg)

/-- OSC_SET_PHASE (R117). -/
def execOscSetPhase (unit : Byte) (s : State) : Result :=
  withUnit Config.nosc (encode (.oscSetPhase unit)) unit s fun n => .next (s.writeOscPhase n s.cmdArg)

/-- OSC_SET_MODE (R118). -/
def execOscSetMode (unit : Byte) (s : State) : Result :=
  withUnit Config.nosc (encode (.oscSetMode unit)) unit s fun n =>
    withArg (modeLegal s.cmdArg) (encode (.oscSetMode unit)) s (s.writeOscMode n s.cmdArg)

/-- OSC_ENABLE (R119). -/
def execOscEnable (unit : Byte) (s : State) : Result :=
  withUnit Config.nosc (encode (.oscEnable unit)) unit s fun n =>
    withArg (enableLegal s.cmdArg) (encode (.oscEnable unit)) s (s.writeOscEnable n s.cmdArg)

/-- OSC_STEP (R120): one advance, whatever DBL, MODE and EN hold. -/
def execOscStep (unit : Byte) (s : State) : Result :=
  withUnit Config.nosc (encode (.oscStep unit)) unit s fun n => .next (s.advance n)

/-- OSC_TICK (R121): one advance and an evaluation, whatever DBL, MODE and EN hold. -/
def execOscTick (unit : Byte) (s : State) : Result :=
  withUnit Config.nosc (encode (.oscTick unit)) unit s fun n => .next ((s.advance n).evaluate n)

end Sys2Proof.Machine
end

