-- ==== Sys2Proof/Machine/Interpolator.lean ====
section
/-! DEFINITION. The fixed-point modulation-coefficient interpolators (42_interpolator.md), and the five
interpolator commands. -/

namespace Sys2Proof.Machine

/-! ### The register writes of the commands: their Pseudocode lines -/

/-- `IP[k].CTRL.EN <- ARG[0]` (R149). -/
def State.writeIpEnable (s : State) (k : Fin Config.nip) (a : Word) : State :=
  s.modifyIp k fun i => { i with ctrl := setBits i.ctrl 0 (a.extractLsb' 0 1) }

/-- `IP[k].SRC <- ARG` (R150). -/
def State.writeIpSrc (s : State) (k : Fin Config.nip) (a : Word) : State :=
  s.modifyIp k fun i => { i with src := a }

/-- `IP[k].DEST <- ARG` (R151). -/
def State.writeIpDest (s : State) (k : Fin Config.nip) (a : Word) : State :=
  s.modifyIp k fun i => { i with dest := a }

/-- `IP[k].MIN <- ARG` (R152). -/
def State.writeIpMin (s : State) (k : Fin Config.nip) (a : Word) : State :=
  s.modifyIp k fun i => { i with minVal := a }

/-- `IP[k].MAX <- ARG` (R153). -/
def State.writeIpMax (s : State) (k : Fin Config.nip) (a : Word) : State :=
  s.modifyIp k fun i => { i with maxVal := a }

/-! ### One run of an interpolator (R141 to R146) -/

/-- ReadSource of R142: the source fires where it is an enabled LFO_PER_READ oscillator. The value read
is then the source's OUT. -/
def State.drawSource (s : State) (src : Word) : State :=
  if h : src.toNat < Config.nosc then s.fireIf modeLfoPerRead ⟨src.toNat, h⟩ else s

/-- The affine map of R143 before its sat32. -/
def Interp.mapRaw (i : Interp) (x : Int) : Int :=
  fx i.minVal + asr ((x + fxOne) * (fx i.maxVal - fx i.minVal)) 25

/-- A register write of a unit that exists; a unit that does not is no destination (R145; log entry 8). -/
def atUnit {limit : Nat} (unit : Byte) (write : Fin limit → State) (s : State) : State :=
  if h : unit.toNat < limit then write ⟨unit.toNat, h⟩ else s

/-- The operand of the destination's command (R146): y shifted to a phase for OSC_SET_POFF, else y. -/
def destOperand (d : Word) (y : Int) : Word :=
  if headerOpc d = 0x14 then mod32 (y * 2 ^ 8) else mod32 y

/-- The Pseudocode line of the destination's command on operand `a` (R146): it touches neither CMD nor
CMD_ARG nor the error record. -/
def State.writeDest (s : State) (d a : Word) : State :=
  match (headerOpc d).toNat with
  | 0x12 => atUnit (headerUnit d) (fun n => s.writeOscPw n a) s
  | 0x13 => atUnit (headerUnit d) (fun n => s.writeOscFmul n a) s
  | 0x14 => atUnit (headerUnit d) (fun n => s.writeOscPoff n a) s
  | 0x22 => atUnit (headerUnit d) (fun c => atUnit (headerSub d) (fun t => s.writeChTapGain c t a) s) s
  | 0x23 => atUnit (headerUnit d) (fun c => s.writeChOffset c a) s
  | 0x24 => atUnit (headerUnit d) (fun c => s.writeChClip c a) s
  | 0x26 => atUnit (headerUnit d) (fun c => atUnit (headerSub d) (fun k => s.writeChCoef c k a) s) s
  | 0x28 => atUnit (headerUnit d) (fun c => s.writeChDry c a) s
  | 0x29 => atUnit (headerUnit d) (fun c => s.writeChWet c a) s
  | 0x2A => atUnit (headerUnit d) (fun c => s.writeChGain c a) s
  | 0x2B => atUnit (headerUnit d) (fun c => s.writeChPan c a) s
  | 0x33 => atUnit (headerUnit d) (fun k => s.writeIpMin k a) s
  | 0x34 => atUnit (headerUnit d) (fun k => s.writeIpMax k a) s
  | _ => s

/-- RunInterpolator(k) of R164: read the source (R142), compute y and write OUT (R143), and write the
destination where there is one (R146). -/
def State.runInterp (s : State) (k : Fin Config.nip) : State :=
  let src := s.ip[k].src
  let s := s.drawSource src
  let yRaw := s.ip[k].mapRaw (s.oscOut src)
  let d := s.ip[k].dest
  let s := (s.modifyIp k fun i => { i with out := toFx (sat32 yRaw) }).noteSat (saturates yRaw)
  if d = 0 then s else s.writeDest d (destOperand d (sat32 yRaw))

/-- RunInterpolator(k) where the interpolator is enabled (R141, R166). -/
def State.runInterpIf (s : State) (k : Fin Config.nip) : State :=
  if s.ip[k].en then s.runInterp k else s

/-! ### The commands -/

/-- IP_ENABLE (R149). -/
def execIpEnable (unit : Byte) (s : State) : Result :=
  withUnit Config.nip (encode (.ipEnable unit)) unit s fun k =>
    withArg (enableLegal s.cmdArg) (encode (.ipEnable unit)) s (s.writeIpEnable k s.cmdArg)

/-- IP_SET_SRC (R150). -/
def execIpSetSrc (unit : Byte) (s : State) : Result :=
  withUnit Config.nip (encode (.ipSetSrc unit)) unit s fun k =>
    withArg (srcLegal s.cmdArg) (encode (.ipSetSrc unit)) s (s.writeIpSrc k s.cmdArg)

/-- IP_SET_DEST (R151). -/
def execIpSetDest (unit : Byte) (s : State) : Result :=
  withUnit Config.nip (encode (.ipSetDest unit)) unit s fun k =>
    withArg (destLegal s.cmdArg) (encode (.ipSetDest unit)) s (s.writeIpDest k s.cmdArg)

/-- IP_SET_MIN (R152). -/
def execIpSetMin (unit : Byte) (s : State) : Result :=
  withUnit Config.nip (encode (.ipSetMin unit)) unit s fun k => .next (s.writeIpMin k s.cmdArg)

/-- IP_SET_MAX (R153). -/
def execIpSetMax (unit : Byte) (s : State) : Result :=
  withUnit Config.nip (encode (.ipSetMax unit)) unit s fun k => .next (s.writeIpMax k s.cmdArg)

end Sys2Proof.Machine
end

