-- ==== Sys2Proof/Machine/MixerRamp.lean ====
section
/-! DEFINITION. The stereo panner and mixer and the master ramp (43_mixer_ramp.md), and the three ramp
commands. -/

namespace Sys2Proof.Machine

/-! ### Panner and mixer (R154, R155) -/

/-- The pan position clamped to [-1, 1] (R154). -/
def Channel.panPosition (c : Channel) : Int := max (-fxOne) (min fxOne (fx c.pan))

/-- gL of R154. -/
def Channel.panLeft (c : Channel) : Int := if c.panEn then asr (fxOne - c.panPosition) 1 else fxOne

/-- gR of R154. -/
def Channel.panRight (c : Channel) : Int := if c.panEn then asr (fxOne + c.panPosition) 1 else fxOne

/-- The exact sum of R155 over the enabled channels, for one side's gain. -/
def State.mixSum (s : State) (gain : Channel → Int) : Int :=
  (List.finRange Config.nch).foldl
    (fun acc c => if s.ch[c].en then acc + fx s.ch[c].out * gain s.ch[c] else acc) 0

/-- A side of the mix before its sat32 (R155). -/
def State.mixRaw (s : State) (gain : Channel → Int) : Int := asr (s.mixSum gain) 24

/-! ### Master ramp (R157 to R159) -/

/-- The ramp advance of one frame (R158). -/
def State.advanceRamp (s : State) : State :=
  if s.rampCnt.toNat = 0 then s
  else
    let s := { s with rampCnt := s.rampCnt - 1 }
    if s.rampCnt.toNat = 0 then { s with rampCur := s.rampTarget }
    else { s with rampCur := toFx (fx s.rampCur + fx s.rampStep) }

/-- RAMP_LEN from RAMP_TIME and SAMPLE_RATE (R39, R162, R173). -/
def rampLength (time rate : Word) : Word :=
  BitVec.ofNat 32 (min (floorDiv (time.toNat * rate.toNat) 1000) 0xFFFFFFFF)

/-! ### The register writes of the commands: their Pseudocode -/

/-- RAMP_SET_TARGET's Pseudocode (R161). -/
def State.startRamp (s : State) (target : Word) : State :=
  if s.rampLen.toNat = 0 then
    { s with rampTarget := target, rampCur := target, rampCnt := 0, rampStep := 0 }
  else
    { s with
      rampTarget := target
      rampCnt := s.rampLen
      rampStep :=
        if 2 ≤ s.rampLen.toNat then toFx (truncDiv (fx target - fx s.rampCur) s.rampLen.toNat) else 0 }

/-- RAMP_SET_TIME's Pseudocode (R162). -/
def State.writeRampTime (s : State) (time : Word) : State :=
  { s with rampTime := time, rampLen := rampLength time s.sampleRate }

/-- RAMP_SET_VALUE's Pseudocode (R163). -/
def State.writeRampValue (s : State) (value : Word) : State :=
  { s with rampCur := value, rampTarget := value, rampCnt := 0, rampStep := 0 }

/-! ### The commands -/

/-- RAMP_SET_TARGET (R161). -/
def execRampSetTarget (s : State) : Result := .next (s.startRamp s.cmdArg)

/-- RAMP_SET_TIME (R162). -/
def execRampSetTime (s : State) : Result := .next (s.writeRampTime s.cmdArg)

/-- RAMP_SET_VALUE (R163). -/
def execRampSetValue (s : State) : Result := .next (s.writeRampValue s.cmdArg)

end Sys2Proof.Machine
end

