-- ==== Sys2Proof/Machine/RenderControl.lean ====
section
/-! DEFINITION. The RENDER pipeline and the global control commands (44_render_and_control.md), and the
hardware reset (R195). -/

namespace Sys2Proof.Machine

/-! ### The frame pipeline (R164 to R170) -/

/-- Stage 1 (R165): every enabled LFO_ONCE oscillator fires, ascending. -/
def State.stageLfos (s : State) : State := forUnits Config.nosc (fun n s => s.fireIf modeLfoOnce n) s

/-- Stage 2 (R166, R147): every enabled interpolator runs, ascending. -/
def State.stageInterps (s : State) : State := forUnits Config.nip (fun k s => s.runInterpIf k) s

/-- Stage 3 (R167): every enabled AUDIO oscillator fires, ascending. -/
def State.stageOscs (s : State) : State := forUnits Config.nosc (fun n s => s.fireIf modeAudio n) s

/-- Stage 4 (R168): every enabled channel is computed, ascending. -/
def State.stageChannels (s : State) : State := forUnits Config.nch (fun c s => s.runChannelIf c) s

/-- One side of stage 5: the mix, saturated, times the master gain, before its sat32 (R155, R159). -/
def State.sideRaw (s : State) (mixRaw : Int) : Int := fxProduct (sat32 mixRaw) (fx s.rampCur)

/-- Stages 5 and 6 (R169, R170): mix the enabled channels, advance the ramp once, apply the master gain
with the advanced value, write the frame and count it. -/
def State.stageOutput (s : State) (i : Nat) : State :=
  let lMix := s.mixRaw Channel.panLeft
  let rMix := s.mixRaw Channel.panRight
  let s := s.advanceRamp
  let lRaw := s.sideRaw lMix
  let rRaw := s.sideRaw rMix
  let l := toFx (sat32 lRaw)
  let r := toFx (sat32 rRaw)
  let s := s.noteSat (saturates lMix || saturates rMix || saturates lRaw || saturates rRaw)
  { s.writeFrame i l r with lastL := l, lastR := r, frameCount := s.frameCount + 1 }

/-- One frame of RENDER (R164), written to OUTBUF[i]. -/
def State.renderFrame (s : State) (i : Nat) : State :=
  s.stageLfos.stageInterps.stageOscs.stageChannels.stageOutput i

/-- `count` frames, the first written to OUTBUF[i]. -/
def State.renderFrom (s : State) (i : Nat) : Nat → State
  | 0 => s
  | count + 1 => (s.renderFrame i).renderFrom (i + 1) count

/-- RenderBlock(N) of R164: frames 0 .. N-1. -/
def State.renderBlock (s : State) (n : Nat) : State := s.renderFrom 0 n

/-! ### The register writes of the commands: their Pseudocode -/

/-- SET_SAMPLE_RATE's Pseudocode (R173): the rate, every PINC, then RAMP_LEN. -/
def State.writeSampleRate (s : State) (rate : Word) : State :=
  let s := forUnits Config.nosc (fun n s => s.recompute n) { s with sampleRate := rate }
  { s with rampLen := rampLength s.rampTime s.sampleRate }

/-- RESET's Pseudocode (R176, R196): every register at its reset value but CMD, which keeps the header;
OUTBUF keeps its content, and what surrounds the block is not the block's to reset. -/
def State.resetCommand (s : State) : State :=
  { State.reset with
    cmd := s.cmd
    outbuf := s.outbuf
    powerOns := s.powerOns
    events := s.events
    response := s.response }

/-- The hardware reset (R195, R197; log entry 9): every register at its reset value, OUTBUF's content
unspecified again. The host's coming accesses are not the block's to reset. -/
def State.hardReset (s : State) : State :=
  { State.reset with
    powerOns := s.powerOns + 1
    events := s.events }

/-! ### The commands -/

/-- NOP (R172). -/
def execNop (s : State) : Result := .next s

/-- SET_SAMPLE_RATE (R173). -/
def execSetSampleRate (s : State) : Result :=
  withArg (sampleRateLegal s.cmdArg) (encode .setSampleRate) s (s.writeSampleRate s.cmdArg)

/-- SET_MAX_BLOCK (R174). -/
def execSetMaxBlock (s : State) : Result :=
  withArg (maxBlockLegal s.cmdArg) (encode .setMaxBlock) s { s with maxBlock := s.cmdArg }

/-- RENDER (R175). -/
def execRender (s : State) : Result :=
  withArg (renderLegal s.cmdArg s.maxBlock) (encode .render) s (s.renderBlock s.cmdArg.toNat)

/-- RESET (R176). -/
def execReset (s : State) : Result := .next s.resetCommand

/-- CLEAR_STATUS (R177). -/
def execClearStatus (s : State) : Result :=
  withArg (clearStatusLegal s.cmdArg) (encode .clearStatus) s (s.clearStatus s.cmdArg)

end Sys2Proof.Machine
end

