-- ==== Sys2Proof/Machine/Dispatch.lean ====
section
/-! DEFINITION. Every command to its meaning (R88), one arm for each constructor of `Instr`. -/

namespace Sys2Proof.Machine

def exec (i : Instr) (s : State) : Host.Outcome State Fault Refusal :=
  match i with
  | .nop => Sys2Proof.Machine.execNop s
  | .setSampleRate => Sys2Proof.Machine.execSetSampleRate s
  | .setMaxBlock => Sys2Proof.Machine.execSetMaxBlock s
  | .render => Sys2Proof.Machine.execRender s
  | .reset => Sys2Proof.Machine.execReset s
  | .clearStatus => Sys2Proof.Machine.execClearStatus s
  | .rampSetTarget => Sys2Proof.Machine.execRampSetTarget s
  | .rampSetTime => Sys2Proof.Machine.execRampSetTime s
  | .rampSetValue => Sys2Proof.Machine.execRampSetValue s
  | .oscSetFreq unit => Sys2Proof.Machine.execOscSetFreq unit s
  | .oscSetWave unit => Sys2Proof.Machine.execOscSetWave unit s
  | .oscSetPw unit => Sys2Proof.Machine.execOscSetPw unit s
  | .oscSetFmul unit => Sys2Proof.Machine.execOscSetFmul unit s
  | .oscSetPoff unit => Sys2Proof.Machine.execOscSetPoff unit s
  | .oscSetPhase unit => Sys2Proof.Machine.execOscSetPhase unit s
  | .oscSetMode unit => Sys2Proof.Machine.execOscSetMode unit s
  | .oscEnable unit => Sys2Proof.Machine.execOscEnable unit s
  | .oscStep unit => Sys2Proof.Machine.execOscStep unit s
  | .oscTick unit => Sys2Proof.Machine.execOscTick unit s
  | .chEnable unit => Sys2Proof.Machine.execChEnable unit s
  | .chSetTapSrc unit sub => Sys2Proof.Machine.execChSetTapSrc unit sub s
  | .chSetTapGain unit sub => Sys2Proof.Machine.execChSetTapGain unit sub s
  | .chSetOffset unit => Sys2Proof.Machine.execChSetOffset unit s
  | .chSetClip unit => Sys2Proof.Machine.execChSetClip unit s
  | .chSetFlags unit => Sys2Proof.Machine.execChSetFlags unit s
  | .chSetCoef unit sub => Sys2Proof.Machine.execChSetCoef unit sub s
  | .chClearHist unit => Sys2Proof.Machine.execChClearHist unit s
  | .chSetDry unit => Sys2Proof.Machine.execChSetDry unit s
  | .chSetWet unit => Sys2Proof.Machine.execChSetWet unit s
  | .chSetGain unit => Sys2Proof.Machine.execChSetGain unit s
  | .chSetPan unit => Sys2Proof.Machine.execChSetPan unit s
  | .ipEnable unit => Sys2Proof.Machine.execIpEnable unit s
  | .ipSetSrc unit => Sys2Proof.Machine.execIpSetSrc unit s
  | .ipSetDest unit => Sys2Proof.Machine.execIpSetDest unit s
  | .ipSetMin unit => Sys2Proof.Machine.execIpSetMin unit s
  | .ipSetMax unit => Sys2Proof.Machine.execIpSetMax unit s

end Sys2Proof.Machine
end

