-- ==== Sys2Proof/Machine/Bus.lean ====
section
/-! DEFINITION. What a bus event does to the block (20_memory.md, R195): reads, writes, the execution of
a header written to CMD (R86), and the hardware reset. -/

namespace Sys2Proof.Machine

/-- The offset of CMD_ARG (R26). -/
def cmdArgOffset : Nat := 0x01C
/-- The offset of CMD (R26). -/
def cmdOffset : Nat := 0x020
/-- The number of byte offsets of the window (R66). -/
def windowSize : Nat := 0x10000

/-- An access the block takes: 32 bits wide, at a multiple of 4 (R71). -/
def accessDefined (width : Width) (offset : Nat) : Bool := width == .word && offset % 4 == 0

/-- Execute(h, CMD_ARG) of R86: a decoding error is a failed command, everything else is the
command's own. -/
def State.execute (s : State) (h : Word) : Result :=
  match decode h with
  | .error e => .next (s.cmdError e h)
  | .ok i => exec i s

/-- A defined write (R73): CMD_ARG stores, CMD stores and executes, every other offset ignores it. -/
def State.memWrite (s : State) (offset : Nat) (value : Word) : Result :=
  if offset = cmdArgOffset then .next { s with cmdArg := value }
  else if offset = cmdOffset then { s with cmd := value }.execute value
  else .next s

/-- A bus read (R71, R72): the word, or a bus error that returns 0. It changes no register and no
memory (log entry 3). -/
def State.busRead (s : State) (width : Width) (offset : Nat) : Result :=
  if windowSize ≤ offset then .fault (.outsideWindow offset)
  else if accessDefined width offset then
    .next { s with response := some (.readData (s.readWord offset)) }
  else .next { s with response := some (.readError 0) }

/-- A bus write (R71, R73): a bus error changes nothing and executes nothing (log entry 3). -/
def State.busWrite (s : State) (width : Width) (offset : Nat) (value : Word) : Result :=
  if windowSize ≤ offset then .fault (.outsideWindow offset)
  else if accessDefined width offset then
    { s with response := some .writeDone }.memWrite offset value
  else .next { s with response := some .writeError }

/-- One bus event. -/
def State.perform (s : State) : BusEvent → Result
  | .read width offset => s.busRead width offset
  | .write width offset value => s.busWrite width offset value
  | .hardReset => .next s.hardReset

/-- The next bus event happens; with none to come the block is idle and keeps all its state (R193,
R198; log entry 2). -/
def State.nextEvent (s : State) : Result :=
  match s.events with
  | [] => .next s
  | e :: rest => { s with events := rest }.perform e

/-- The host writes the header `h` to CMD next. -/
def State.withHeaderWrite (s : State) (h : Word) : State :=
  { s with events := .write .word cmdOffset h :: s.events }

end Sys2Proof.Machine
end

