-- ==== Sys2Proof/Machine/Step.lean ====
section
/-! DEFINITION. One step of the machine: the next bus event (log entry 1). -/

namespace Sys2Proof.Machine

/-- One step: the oldest pending bus event takes effect, or the block idles. -/
def step (s : State) : Host.Outcome State Fault Refusal := s.nextEvent

/-- The state in which the next step executes the table row's word: the host's next access writes it to
CMD (R73, R86). A command is not fetched from memory (R24), so this is all its placement takes. -/
def State.withFetchWord (s : State) (nbits w : Nat) : State := s.withHeaderWrite (tableWord nbits w)

end Sys2Proof.Machine
end

