-- ==== Sys2Proof/Machine/Assembler.lean ====
section
/-! DEFINITION. The assembler (R94 to R97): command lines, their literals, the bus writes they encode to,
the pseudo-instructions, and the concrete syntax of a line. The block sees only the bus writes (R95). -/

namespace Sys2Proof.Machine

/-! ### Lines and their bus writes (R94, R96) -/

/-- The command reads ARG: all but the five of R91. -/
def Instr.usesArg : Instr → Bool
  | .nop => false
  | .reset => false
  | .oscStep _ => false
  | .oscTick _ => false
  | .chClearHist _ => false
  | _ => true

/-- One line: a command and its ARG, which is absent where the command's ARG is unused (R94). -/
structure Line where
  instr : Instr
  arg : Option Word
deriving DecidableEq, Repr

/-- The bus writes of a line (R96): CMD_ARG, where the line has an ARG, then CMD. -/
def Line.writes (l : Line) : List BusEvent :=
  match l.arg with
  | some a => [.write .word cmdArgOffset a, .write .word cmdOffset (encode l.instr)]
  | none => [.write .word cmdOffset (encode l.instr)]

/-- The bus writes of a program (R96). -/
def assemble (p : List Line) : List BusEvent := p.flatMap Line.writes

/-! ### Literals (R95), for the reals and for any ordered field with a floor -/

section Literals

variable {K : Type} [Field K] [LinearOrder K] [FloorRing K]

/-- `fx(r)`: floor of `r*2^24 + 1/2`, an assembly error outside the FX range. -/
def fxLit (r : K) : Option Word :=
  let v := ⌊r * 2 ^ 24 + 1 / 2⌋
  if -0x80000000 ≤ v ∧ v ≤ 0x7FFFFFFF then some (BitVec.ofInt 32 v) else none

/-- `hz(r)` for `r >= 0`: floor of `r*2^16 + 1/2`, below `2^32`. -/
def hzLit (r : K) : Option Word :=
  let v := ⌊r * 2 ^ 16 + 1 / 2⌋
  if 0 ≤ r ∧ v < 0x100000000 then some (BitVec.ofInt 32 v) else none

/-- `ph(r)`: floor of `r*2^32 + 1/2`, modulo `2^32`. -/
def phLit (r : K) : Word := BitVec.ofInt 32 ⌊r * 2 ^ 32 + 1 / 2⌋

/-! ### Pseudo-instructions (R97) -/

/-- `tick`. -/
def pseudoTick : List Line := [⟨.render, some 1⟩]

/-- `osc_hz oN, r`. -/
def pseudoOscHz (n : Byte) (r : K) : Option (List Line) := do
  let f ← hzLit r
  return [⟨.oscSetFreq n, some f⟩]

/-- `osc_on oN` and `osc_off oN`. -/
def pseudoOscEnable (n : Byte) (on : Bool) : List Line := [⟨.oscEnable n, some (if on then 1 else 0)⟩]

/-- `ch_on cN` and `ch_off cN`. -/
def pseudoChEnable (c : Byte) (on : Bool) : List Line := [⟨.chEnable c, some (if on then 1 else 0)⟩]

/-- `ch_onepole cN, a`; `fx(a) - 0x01000000` is stored as two's complement. DESIGN CHOICE (log entry 14):
where that integer is below `-2^31` (a below -127) it has no 32-bit two's complement, and R97 does not
say whether the line is then an assembly error; it is stored modulo `2^32`. -/
def pseudoOnepole (c : Byte) (a : K) : Option (List Line) := do
  let w ← fxLit a
  return [⟨.chSetCoef c 0, some w⟩, ⟨.chSetCoef c 1, some 0⟩, ⟨.chSetCoef c 2, some 0⟩,
    ⟨.chSetCoef c 3, some (w - 0x01000000)⟩, ⟨.chSetCoef c 4, some 0⟩]

/-- `ch_identity cN`. -/
def pseudoIdentity (c : Byte) : List Line :=
  [⟨.chSetCoef c 0, some 0x01000000⟩, ⟨.chSetCoef c 1, some 0⟩, ⟨.chSetCoef c 2, some 0⟩,
    ⟨.chSetCoef c 3, some 0⟩, ⟨.chSetCoef c 4, some 0⟩]

/-- `ip_map iK, oS, D, lo, hi`. -/
def pseudoIpMap (k : Byte) (src dest : Word) (lo hi : K) : Option (List Line) := do
  let l ← fxLit lo
  let h ← fxLit hi
  return [⟨.ipSetSrc k, some src⟩, ⟨.ipSetDest k, some dest⟩, ⟨.ipSetMin k, some l⟩,
    ⟨.ipSetMax k, some h⟩, ⟨.ipEnable k, some 1⟩]

/-- `vibrato iK, oL, oN, d`. -/
def pseudoVibrato (k : Byte) (lfo : Word) (n : Byte) (d : K) : Option (List Line) :=
  pseudoIpMap k lfo (encode (.oscSetFmul n)) (1 - d) (1 + d)

/-- `fade_in t, g`. -/
def pseudoFadeIn (t : Word) (g : K) : Option (List Line) := do
  let w ← fxLit g
  return [⟨.rampSetValue, some 0⟩, ⟨.rampSetTime, some t⟩, ⟨.rampSetTarget, some w⟩]

/-- `clear_all`. -/
def pseudoClearAll : List Line := [⟨.clearStatus, some 0x301⟩]

end Literals

/-! ### Concrete syntax (R94; log entry 14): reals are written as decimals -/

/-- The command names, in lower case, with their opcodes (R88). -/
def opNames : List (String × Byte) :=
  [
   ("nop", 0x00), ("set_sample_rate", 0x01), ("set_max_block", 0x02), ("render", 0x03),
   ("reset", 0x04), ("clear_status", 0x05), ("ramp_set_target", 0x06), ("ramp_set_time", 0x07),
   ("ramp_set_value", 0x08), ("osc_set_freq", 0x10), ("osc_set_wave", 0x11), ("osc_set_pw", 0x12),
   ("osc_set_fmul", 0x13), ("osc_set_poff", 0x14), ("osc_set_phase", 0x15), ("osc_set_mode", 0x16),
   ("osc_enable", 0x17), ("osc_step", 0x18), ("osc_tick", 0x19), ("ch_enable", 0x20),
   ("ch_set_tap_src", 0x21), ("ch_set_tap_gain", 0x22), ("ch_set_offset", 0x23), ("ch_set_clip", 0x24),
   ("ch_set_flags", 0x25), ("ch_set_coef", 0x26), ("ch_clear_hist", 0x27), ("ch_set_dry", 0x28),
   ("ch_set_wet", 0x29), ("ch_set_gain", 0x2A), ("ch_set_pan", 0x2B), ("ip_enable", 0x30),
   ("ip_set_src", 0x31), ("ip_set_dest", 0x32), ("ip_set_min", 0x33), ("ip_set_max", 0x34)
  ]

/-- The opcode of a name. -/
def opOfName (name : List Char) : Option Byte := (opNames.find? fun p => p.1.toList == name).map Prod.snd

/-- A text cut at every `c`. -/
def cutAt (c : Char) : List Char → List (List Char)
  | [] => [[]]
  | x :: xs =>
    if x = c then [] :: cutAt c xs
    else match cutAt c xs with
      | [] => [[x]]
      | w :: ws => (x :: w) :: ws

/-- Without blanks at either end. -/
def trimBlanks (t : List Char) : List Char :=
  ((t.dropWhile (· == ' ')).reverse.dropWhile (· == ' ')).reverse

/-- A digit's value in base 10 or 16. -/
def digitValue (base : Nat) (c : Char) : Option Nat :=
  let v :=
    if '0' ≤ c ∧ c ≤ '9' then c.toNat - 48
    else if 'a' ≤ c ∧ c ≤ 'f' then c.toNat - 87
    else if 'A' ≤ c ∧ c ≤ 'F' then c.toNat - 55
    else base
  if v < base then some v else none

/-- Digits read onto a value. -/
def readDigits (base : Nat) (acc : Nat) : List Char → Option Nat
  | [] => some acc
  | c :: cs => (digitValue base c).bind fun d => readDigits base (acc * base + d) cs

/-- A non-empty run of decimal digits. -/
def readNat (t : List Char) : Option Nat := if t.isEmpty then none else readDigits 10 0 t

/-- An integer literal (R94): decimal, `0x` hexadecimal, or a negative decimal. -/
def readWordLit (t : List Char) : Option Word :=
  match t with
  | '0' :: 'x' :: c :: ds => do
    let v ← readDigits 16 0 (c :: ds)
    if v < 0x100000000 then some (BitVec.ofNat 32 v) else none
  | '-' :: ds => do
    let v ← readNat ds
    if v ≤ 0x80000000 then some (BitVec.ofInt 32 (-(v : Int))) else none
  | ds => do
    let v ← readNat ds
    if v < 0x100000000 then some (BitVec.ofNat 32 v) else none

/-- A decimal without a sign. -/
def readUnsignedReal (t : List Char) : Option ℚ :=
  match cutAt '.' t with
  | [w] => (readNat w).map fun n => (n : ℚ)
  | [w, f] => do
    let n ← readNat w
    let d ← readNat f
    return (n : ℚ) + (d : ℚ) / 10 ^ f.length
  | _ => none

/-- A real written as a decimal. -/
def readReal (t : List Char) : Option ℚ :=
  match t with
  | '-' :: ds => (readUnsignedReal ds).map fun r => -r
  | ds => readUnsignedReal ds

/-- A byte-sized index after its letter, as in `o3`. -/
def readIndex (letter : Char) (t : List Char) : Option Byte :=
  match t with
  | c :: ds => do
    let n ← readNat ds
    if c = letter ∧ n < 256 then some (BitVec.ofNat 8 n) else none
  | [] => none

/-- The letter of a class's units (R94). -/
def unitLetter : OpClass → Char
  | .O => 'o'
  | .C => 'c'
  | .I => 'i'
  | .G => ' '

/-- A unit operand: `o<n>`, `c<n>`, `i<k>`, with `[t]` giving SUB (R94). DESIGN CHOICE (log entry 14), at
two points: R94 makes `[t]` optional and gives SUB no value where it is left out; for an opcode that has
SUB it is then SUB 0. R94 states no error for `[t]` after the unit of an opcode without SUB
(`ch_set_offset c0[1], 0`); there `[0]` is SUB 0, and any other `[t]` is an assembly error, not a header
that the block fails with ERR_RSVD. -/
def readUnit (row : OpRow) (t : List Char) : Option Instr :=
  match cutAt '[' t with
  | [u] => (readIndex (unitLetter row.cls) (trimBlanks u)).map fun n => row.build n 0
  | [u, r] =>
    match r.reverse with
    | ']' :: ds => do
      let n ← readIndex (unitLetter row.cls) (trimBlanks u)
      let k ← readNat ds.reverse
      if (row.nsub = 0 → k = 0) ∧ k < 256 then some (row.build n (BitVec.ofNat 8 k)) else none
    | _ => none
  | _ => none

/-- What stands between the parentheses of `name(…)`. -/
def insideCall (name : String) (t : List Char) : Option (List Char) :=
  match cutAt '(' t with
  | [f, r] =>
    match r.reverse with
    | ')' :: ds => if f = name.toList then some (trimBlanks ds.reverse) else none
    | _ => none
  | _ => none

/-- A name and what follows its first blank. -/
def splitName (t : List Char) : List Char × List Char :=
  (t.takeWhile (· != ' '), trimBlanks (t.dropWhile (· != ' ')))

/-- `dest(<mnemonic> <unit>[<sub>])`: the header of that command (R95). -/
def readDest (t : List Char) : Option Word := do
  let inside ← insideCall "dest" t
  let opc ← opOfName (splitName inside).1
  let row ← opRow opc
  let i ← readUnit row (splitName inside).2
  return encode i

/-- An arg that every command takes: an integer literal, `fx(r)`, `hz(r)` or `ph(r)` (R94, R95). -/
def readLiteral (t : List Char) : Option Word :=
  readWordLit t
    <|> ((insideCall "fx" t).bind readReal).bind fxLit
    <|> ((insideCall "hz" t).bind readReal).bind hzLit
    <|> ((insideCall "ph" t).bind readReal).map phLit

/-- `o<n>` as an arg: the word n (R95). -/
def readSource (t : List Char) : Option Word :=
  match t with
  | 'o' :: ds => do
    let n ← readNat ds
    if n < 0x100000000 then some (BitVec.ofNat 32 n) else none
  | _ => none

/-- An arg operand of the command (R94, R95). DESIGN CHOICE (log entry 14): R94 and R95 do not tie `fx`, `hz`
and `ph` to the commands of a format, nor bound the n of an `o<n>` arg; every command takes these three
and an integer literal, and n is any 32-bit word, so that the block itself fails a value that is no legal
ARG. The other forms stand only with the commands that R95 names for them. -/
def readArg (i : Instr) (t : List Char) : Option Word :=
  match i with
  | .chSetTapSrc _ _ => if t = "none".toList then some 0xFF else readSource t <|> readLiteral t
  | .ipSetSrc _ => readSource t <|> readLiteral t
  | .ipSetDest _ => if t = "none".toList then some 0 else readDest t <|> readLiteral t
  | _ => readLiteral t

/-- The line of a command, from the arg text if there is one. -/
def lineOf (i : Instr) (arg : Option (List Char)) : Option (List Line) :=
  match arg with
  | none => if Instr.usesArg i then none else some [⟨i, none⟩]
  | some t => if Instr.usesArg i then (readArg i t).map fun a => [⟨i, some a⟩] else none

/-- A line of a command of R88. -/
def readCommand (opc : Byte) (ops : List (List Char)) : Option (List Line) := do
  let row ← opRow opc
  match row.cls, ops with
  | .G, [] => lineOf (row.build 0 0) none
  | .G, [a] => lineOf (row.build 0 0) (some a)
  | .G, _ => none
  | _, [u] => do lineOf (← readUnit row u) none
  | _, [u, a] => do lineOf (← readUnit row u) (some a)
  | _, _ => none

/-- A line of a pseudo-instruction of R97. DESIGN CHOICE (log entry 14): R97 does not say which forms the D of
`ip_map` and the t of `fade_in` take; they are those of the command they become the arg of, IP_SET_DEST
and RAMP_SET_TIME. The other operands are of the shape R97 writes: an `o<n>`, `c<n>` or `i<k>`, or a real. -/
def readPseudo (name : List Char) (ops : List (List Char)) : Option (List Line) :=
  match String.ofList name, ops with
  | "tick", [] => some pseudoTick
  | "clear_all", [] => some pseudoClearAll
  | "osc_hz", [u, r] => do pseudoOscHz (← readIndex 'o' u) (← readReal r)
  | "osc_on", [u] => do return pseudoOscEnable (← readIndex 'o' u) true
  | "osc_off", [u] => do return pseudoOscEnable (← readIndex 'o' u) false
  | "ch_on", [u] => do return pseudoChEnable (← readIndex 'c' u) true
  | "ch_off", [u] => do return pseudoChEnable (← readIndex 'c' u) false
  | "ch_onepole", [u, r] => do pseudoOnepole (← readIndex 'c' u) (← readReal r)
  | "ch_identity", [u] => do return pseudoIdentity (← readIndex 'c' u)
  | "ip_map", [k, s, d, l, h] => do
    let unit ← readIndex 'i' k
    pseudoIpMap unit (← readSource s) (← readArg (.ipSetDest unit) d) (← readReal l) (← readReal h)
  | "vibrato", [k, l, n, d] => do
    pseudoVibrato (← readIndex 'i' k) (← readSource l) (← readIndex 'o' n) (← readReal d)
  | "fade_in", [t, g] => do pseudoFadeIn (← readArg .rampSetTime t) (← readReal g)
  | _, _ => none

/-- One line of text: a command or a pseudo-instruction, `;` starting a comment; none is an assembly
error, and a blank line is no command. -/
def readLine (text : List Char) : Option (List Line) :=
  let t := trimBlanks (text.takeWhile (· != ';'))
  if t.isEmpty then some []
  else
    let (name, rest) := splitName t
    let ops := if rest.isEmpty then [] else (cutAt ',' rest).map trimBlanks
    match opOfName name with
    | some opc => readCommand opc ops
    | none => readPseudo name ops

/-- A program's text, one command a line. -/
def readProgram (lines : List String) : Option (List Line) :=
  (lines.mapM fun l => readLine l.toList).map List.flatten

end Sys2Proof.Machine
end

