-- ==== Sys2Proof/Machine/Platform.lean ====
section
/-! DEFINITION. Blocks in a host's address map (R66, R191, D27; log entry 15): independent instances,
each with its own state, at bases of their own. -/

namespace Sys2Proof.Machine

/-- One instance and its BLOCK_BASE (D27). -/
structure Placement where
  base : Nat
  block : State
deriving DecidableEq, Repr

/-- The instances a platform has placed (R191). -/
abbrev Platform := List Placement

/-- The host address lies in the instance's window (R66). -/
def Placement.holds (p : Placement) (addr : Nat) : Bool :=
  decide (p.base ≤ addr) && decide (addr < p.base + windowSize)

/-- Every base is a multiple of 64 KiB, and no two instances share one (D27). -/
abbrev Platform.wf (p : Platform) : Prop :=
  (∀ b ∈ p, b.base % windowSize = 0) ∧ p.Pairwise fun x y => x.base ≠ y.base

/-- A host access to an address: the instance whose window holds it takes the access at the offset
`addr - BLOCK_BASE` (R66), and every other instance keeps its state (R191). -/
def Platform.access (p : Platform) (addr : Nat) (event : Nat → BusEvent) :
    Host.Outcome Platform Fault Refusal :=
  match p with
  | [] => .fault (.outsideWindow addr)
  | b :: rest =>
    if b.holds addr then
      match b.block.perform (event (addr - b.base)) with
      | .next s => .next ({ b with block := s } :: rest)
      | .fault f => .fault f
      | .refused r => .refused r
    else
      match Platform.access rest addr event with
      | .next rest' => .next (b :: rest')
      | .fault f => .fault f
      | .refused r => .refused r

end Sys2Proof.Machine
end

