-- ==== Sys2Proof/Safety.lean ====
section
/-! DEFINITION. What counts as a safe run, in the terms the statements use: the invariants of R200, the
ramp's invariant (R158), the two ways of comparing states that statements need, and the rules' own
formulas where a statement gives them apart from the machine's definitions. -/

namespace Sys2Proof.Machine

/-- The invariants the block keeps at every command boundary (R200), with the ranges R109 and R179
give OUT and ERRCODE and the form of OUTBUF's memory (log entry 7). -/
structure Inv (s : State) : Prop where
  /-- SAMPLE_RATE is never 0 (R35). -/
  rate : s.sampleRate.toNat ≠ 0
  /-- 1 <= MAX_BLOCK <= OUTBUF_CAP (R36). -/
  maxBlock : 1 ≤ s.maxBlock.toNat ∧ s.maxBlock.toNat ≤ Config.outbufCap
  /-- PINC is the quotient of FREQ and SAMPLE_RATE (R44). -/
  pinc : ∀ n : Fin Config.nosc,
    s.osc[n].pinc.toNat = s.osc[n].freq.toNat * 2 ^ 16 / s.sampleRate.toNat % 2 ^ 32
  /-- RAMP_LEN is RAMP_TIME at SAMPLE_RATE (R39). -/
  rampLen : s.rampLen.toNat = min (s.rampTime.toNat * s.sampleRate.toNat / 1000) (2 ^ 32 - 1)
  /-- MODE 3 is never stored (R46). -/
  mode : ∀ n : Fin Config.nosc, s.osc[n].mode ≠ 3
  /-- TAP_SRC is an oscillator index or 0xFF (R53). -/
  taps : ∀ (c : Fin Config.nch) (t : Fin 4),
    s.ch[c].tapSrc[t].toNat < Config.nosc ∨ s.ch[c].tapSrc[t] = 0xFF
  /-- SRC is an oscillator index (R60). -/
  src : ∀ k : Fin Config.nip, s.ip[k].src.toNat < Config.nosc
  /-- DEST is 0 or a valid destination (R61). -/
  dest : ∀ k : Fin Config.nip, destLegal s.ip[k].dest = true
  /-- Reserved bits of OSC CTRL are 0 (R46). -/
  oscReserved : ∀ n : Fin Config.nosc, s.osc[n].ctrl.extractLsb' 6 26 = 0
  /-- Reserved bits of CH CTRL are 0 (R52). -/
  chReserved : ∀ c : Fin Config.nch, s.ch[c].ctrl.extractLsb' 4 28 = 0
  /-- Reserved bits of IP CTRL are 0 (R59). -/
  ipReserved : ∀ k : Fin Config.nip, s.ip[k].ctrl.extractLsb' 1 31 = 0
  /-- Reserved bits of STATUS are 0 (R31). -/
  statusReserved : s.status.extractLsb' 1 3 = 0 ∧ s.status.extractLsb' 10 22 = 0
  /-- With no error recorded the record is empty (R200). -/
  noError : s.err = false → s.errCode = 0 ∧ s.errInfo = 0 ∧ s.errArg = 0
  /-- A recorded error has one of the codes 1 to 5 (R179). -/
  codes : s.err = true → 1 ≤ s.errCode.toNat ∧ s.errCode.toNat ≤ 5
  /-- Every oscillator's OUT is in [-1, 1] (R109). -/
  outRange : ∀ n : Fin Config.nosc, -0x1000000 ≤ fx s.osc[n].out ∧ fx s.osc[n].out ≤ 0x1000000
  /-- OUTBUF's memory is in its canonical form and holds bytes of OUTBUF only. -/
  outbuf : Memory.wf s.outbuf ∧
    ∀ e ∈ s.outbuf, 0x8000 ≤ e.1 ∧ e.1 < 0x8000 + 8 * Config.outbufCap

/-- The ramp never passes its target (R158): while a ramp is active, the frames that still add
RAMP_STEP, all but the last one, lead from RAMP_CUR toward RAMP_TARGET and not beyond. -/
def RampInv (s : State) : Prop :=
  0 < s.rampCnt.toNat →
    (0 ≤ fx s.rampStep ∧
      fx s.rampCur + ((s.rampCnt.toNat : Int) - 1) * fx s.rampStep ≤ fx s.rampTarget) ∨
    (fx s.rampStep ≤ 0 ∧
      fx s.rampTarget ≤ fx s.rampCur + ((s.rampCnt.toNat : Int) - 1) * fx s.rampStep)

/-- What no command touches: the free content of OUTBUF, the host's coming accesses and the last
response. -/
def SameSurroundings (s t : State) : Prop :=
  t.powerOns = s.powerOns ∧ t.events = s.events ∧ t.response = s.response

/-- `t` is `s` but for the words listed: reading the whole window word by word, each listed offset
reads its listed value and every other offset reads as it did in `s`; every byte too, since the bytes
are those of the words (R70). Every register of the block and every word of OUTBUF has an offset of
its own in the window (R67), so nothing else of the block changed. -/
def ChangesOnly (s t : State) (words : List (Nat × Word)) : Prop :=
  (∀ p ∈ words, t.readWord p.1 = p.2) ∧
  (∀ a, a % 4 = 0 → (∀ p ∈ words, p.1 ≠ a) → t.readWord a = s.readWord a) ∧
  (∀ a, (∀ p ∈ words, p.1 ≠ a - a % 4) → t.readByte a = s.readByte a) ∧
  SameSurroundings s t

/-- Every register is equal: the states differ at most in OUTBUF. -/
def SameRegisters (s t : State) : Prop := { s with outbuf := [] } = { t with outbuf := [] }

/-! ### Where a register stands in the window -/

/-- The offset of oscillator n's register at `k` in its group (R42). -/
def oscOffset (n k : Nat) : Nat := 0x1000 + 0x20 * n + k
/-- The offset of channel c's register at `k` in its group (R51). -/
def chOffset (c k : Nat) : Nat := 0x4000 + 0x80 * c + k
/-- The offset of interpolator i's register at `k` in its group (R59). -/
def ipOffset (i k : Nat) : Nat := 0x6000 + 0x20 * i + k

/-- The reserved offsets of the window (R68): the reserved rows of R67, and the reserved words of a
channel's and an interpolator's group. -/
def reservedOffset (a : Nat) : Prop :=
  (0x0050 ≤ a ∧ a < 0x1000) ∨ (0x1400 ≤ a ∧ a < 0x4000) ∨ (0x4800 ≤ a ∧ a < 0x6000) ∨
  (0x6200 ≤ a ∧ a < 0x8000) ∨ (0xA000 ≤ a ∧ a < 0x10000) ∨
  (0x4000 ≤ a ∧ a < 0x4800 ∧ 0x64 ≤ a % 0x80) ∨ (0x6000 ≤ a ∧ a < 0x6200 ∧ 0x18 ≤ a % 0x20)

/-- The offset of the register that a valid destination names (R145, R146). -/
def destOffset (d : Word) : Nat :=
  let u := (headerUnit d).toNat
  let t := (headerSub d).toNat
  match (headerOpc d).toNat with
  | 0x12 => oscOffset u 0x10
  | 0x13 => oscOffset u 0x14
  | 0x14 => oscOffset u 0x18
  | 0x22 => chOffset u (0x14 + 4 * t)
  | 0x23 => chOffset u 0x24
  | 0x24 => chOffset u 0x28
  | 0x26 => chOffset u (0x2C + 4 * t)
  | 0x28 => chOffset u 0x50
  | 0x29 => chOffset u 0x54
  | 0x2A => chOffset u 0x58
  | 0x2B => chOffset u 0x5C
  | 0x33 => ipOffset u 0x0C
  | 0x34 => ipOffset u 0x10
  | _ => 0

/-! ### The rules as the statements say them, apart from the machine's own definitions -/

/-- A word with the bits of `mask` set where the condition holds. -/
def flagged (w mask : Word) (b : Bool) : Word := if b then w ||| mask else w

/-- The 8 bits of a header from bit `lo` up, as a number (R84, R85). -/
def headerField (h : Word) (lo : Nat) : Nat := h.toNat / 2 ^ lo % 256

/-- The opcodes of R90's list: those the map does not hold. -/
def illegalOpcode (o : Nat) : Prop :=
  (0x09 ≤ o ∧ o ≤ 0x0F) ∨ (0x1A ≤ o ∧ o ≤ 0x1F) ∨ (0x2C ≤ o ∧ o ≤ 0x2F) ∨ 0x35 ≤ o

/-- LIMIT of the class that OPC[7:4] gives (R86, R87). -/
def unitLimit (o : Nat) : Nat :=
  if o < 0x10 then 1 else if o < 0x20 then Config.nosc else if o < 0x30 then Config.nch else Config.nip

/-- nsub of an opcode (R88). -/
def subCount (o : Nat) : Nat := if o = 0x21 ∨ o = 0x22 then 4 else if o = 0x26 then 5 else 0

/-- A valid destination, as R145 lists it. -/
def validDestination (d : Word) : Prop :=
  d = 0 ∨
    (headerField d 0 = 0 ∧
      headerField d 24 ∈ [0x12, 0x13, 0x14, 0x22, 0x23, 0x24, 0x26, 0x28, 0x29, 0x2A, 0x2B, 0x33, 0x34] ∧
      headerField d 16 < unitLimit (headerField d 24) ∧
      (headerField d 24 = 0x22 → headerField d 8 < 4) ∧
      (headerField d 24 = 0x26 → headerField d 8 < 5) ∧
      (headerField d 24 ≠ 0x22 → headerField d 24 ≠ 0x26 → headerField d 8 = 0))

/-- The "ARG legal" column of R88, by opcode. -/
def argAllowed (o : Nat) (a maxBlock : Word) : Prop :=
  (o = 0x01 → a.toNat ≠ 0) ∧
  (o = 0x02 → 1 ≤ a.toNat ∧ a.toNat ≤ Config.outbufCap) ∧
  (o = 0x03 → a.toNat ≤ maxBlock.toNat) ∧
  (o = 0x05 → a &&& 0xFFFFFCFE = 0) ∧
  (o = 0x11 → a.toNat ≤ 3) ∧
  (o = 0x16 → a.toNat < 8 ∧ a.toNat % 4 ≠ 3) ∧
  (o = 0x17 ∨ o = 0x20 ∨ o = 0x30 → a.toNat ≤ 1) ∧
  (o = 0x21 → a.toNat < Config.nosc ∨ a.toNat = 0xFF) ∧
  (o = 0x25 → a.toNat < 8) ∧
  (o = 0x31 → a.toNat < Config.nosc) ∧
  (o = 0x32 → validDestination a)

/-- The first check of R86 that fails for header `h` with operand `a` is the one that raises `e`. -/
def FailsWith (h a maxBlock : Word) (e : CmdErr) : Prop :=
  let o := headerField h 24
  let rsvdBad := headerField h 0 ≠ 0 ∨ (o < 0x10 ∧ headerField h 16 ≠ 0) ∨
    (subCount o = 0 ∧ headerField h 8 ≠ 0)
  let unitBad := unitLimit o ≤ headerField h 16
  let subBad := 0 < subCount o ∧ subCount o ≤ headerField h 8
  match e with
  | .opcode => illegalOpcode o
  | .rsvd => ¬illegalOpcode o ∧ rsvdBad
  | .unit => ¬illegalOpcode o ∧ ¬rsvdBad ∧ unitBad
  | .sub => ¬illegalOpcode o ∧ ¬rsvdBad ∧ ¬unitBad ∧ subBad
  | .arg => ¬illegalOpcode o ∧ ¬rsvdBad ∧ ¬unitBad ∧ ¬subBad ∧ ¬argAllowed o a maxBlock

/-- No check of R86 fails. -/
def PassesChecks (h a maxBlock : Word) : Prop := ∀ e, ¬FailsWith h a maxBlock e

/-- The mask of a row (R89). -/
def rowMask (row : OpRow) : Word :=
  if row.cls = .G then 0xFFFFFFFF else if row.nsub = 0 then 0xFF00FFFF else 0xFF0000FF

/-- The error code's number (R179). -/
def errorNumber : CmdErr → Nat
  | .opcode => 1
  | .rsvd => 2
  | .unit => 3
  | .sub => 4
  | .arg => 5

/-- The waveforms of R105 to R108 on a lookup phase, by the number that WAVE holds. -/
def waveformValue (wave : Nat) (q : Word) (pw : Int) : Int :=
  match wave with
  | 0 => Config.sine q
  | 1 => if (q.toNat : Int) ≤ pw * 2 ^ 8 then 2 ^ 23 else -2 ^ 23
  | 2 => |(q.toNat : Int) / 2 ^ 8 - 2 ^ 23| - 2 ^ 23
  | _ => (q.toNat : Int) / 2 ^ 8 - 2 ^ 23

/-- The increment of one advance, `floor(PINC * FMUL / 2^24)` (R101). -/
def phaseStep (o : Osc) : Int := (o.pinc.toNat : Int) * o.fmul.toInt / 2 ^ 24

/-- The oscillator after one firing (R103). -/
def Osc.fired (o : Osc) : Osc := (if o.dbl then o.advance.advance else o.advance).evaluate

/-- OSC[i].OUT as an integer; the invariants (R53, R60) leave no other index. -/
def State.outAt (s : State) (i : Word) : Int := (s.osc.toList.map fun o => fx o.out).getD i.toNat 0

/-- The enabled interpolators up to and with `k` that read oscillator `n`. -/
def State.readersUpTo (s : State) (n : Fin Config.nosc) (k : Nat) : Nat :=
  (List.finRange Config.nip).countP fun j => decide (j.val ≤ k) && s.ip[j].en && s.ip[j].src.toNat == n.val

/-! ### What a frame leaves, register by register (R146, R147, R164) -/

/-- An integer that sat32 changes (R14). -/
def outsideFx (v : Int) : Prop := v < -2 ^ 31 ∨ 2 ^ 31 ≤ v

/-- An increment outside one cycle, which STATUS.RANGE records (R101). -/
def outsideCycle (d : Int) : Prop := d < 0 ∨ 2 ^ 32 ≤ d

/-- The offsets that the stages of `frames` frames themselves write: STATUS, FRAME_COUNT, RAMP_CUR,
RAMP_CNT, LAST_L, LAST_R, every PHASE and OUT, every filter history, and OUTBUF's first entries. -/
def stageWritten (frames a : Nat) : Prop :=
  a ∈ [0x010, 0x02C, 0x03C, 0x044, 0x048, 0x04C] ∨
  (∃ n : Fin Config.nosc, ∃ k ∈ [0x08, 0x1C], a = oscOffset n k) ∨
  (∃ c : Fin Config.nch, ∃ k ∈ [0x40, 0x44, 0x48, 0x4C, 0x60], a = chOffset c k) ∨
  (∃ i : Fin Config.nip, a = ipOffset i 0x14) ∨
  (0x8000 ≤ a ∧ a < 0x8000 + 8 * frames)

/-- Interpolator `k` writes the register at offset `a` in each frame (R141, R146). -/
def State.drives (s : State) (k : Fin Config.nip) (a : Nat) : Bool :=
  s.ip[k].en && s.ip[k].dest != 0 && destOffset s.ip[k].dest == a

/-- Every enabled interpolator's DEST is 0 or a valid destination (R61). -/
def State.destsValid (s : State) : Prop :=
  ∀ k : Fin Config.nip, s.ip[k].en = true → validDestination s.ip[k].dest

/-- The word that the register of destination `d` takes from the output y (R146). -/
def destWord (d : Word) (y : Int) : Word :=
  BitVec.ofInt 32 (if headerField d 24 = 0x14 then y * 2 ^ 8 else y)

/-- What the register at offset `a` holds when interpolator `k` runs in a frame from `s` to `t` (R147):
what the last of the lower interpolators that drive it wrote, or what it held before the frame where
none does. -/
def State.seenBy (s t : State) : Nat → Nat → Word
  | 0, a => s.readWord a
  | k + 1, a =>
    if h : k < Config.nip then
      if s.drives ⟨k, h⟩ a then destWord s.ip[k].dest (fx t.ip[k].out) else s.seenBy t k a
    else s.seenBy t k a

/-- The affine map of R143 on MIN, MAX and a source value. -/
def affineMap (mn mx x : Int) : Int := mn + (x + 2 ^ 24) * (mx - mn) / 2 ^ 25

/-- LFO_PER_READ oscillator `n` as the interpolators below `k` leave it in a frame from `s` to `t` (R142):
each enabled one that reads it fires it, from the phase the one before left, on the PW, FMUL and POFF
that it sees. -/
def State.drawnBy (s t : State) (n : Fin Config.nosc) : Nat → Osc
  | 0 => s.osc[n]
  | k + 1 =>
    if h : k < Config.nip then
      if s.ip[k].en && s.ip[k].src.toNat == n.val then
        Osc.fired { s.drawnBy t n k with
          pw := s.seenBy t k (oscOffset n 0x10)
          fmul := s.seenBy t k (oscOffset n 0x14)
          poff := s.seenBy t k (oscOffset n 0x18) }
      else s.drawnBy t n k
    else s.drawnBy t n k

end Sys2Proof.Machine
end

