-- ==== Sys2Proof/Certificates/Slice0/Obligations.lean ====
section
/-! DEFINITION. The statements for the provers, from the numbered rules of spec/. A statement about a
command gives its next state and, by `ChangesOnly`, its frame: every register and every byte of the
window that it does not list reads as before. -/

open Sys2Proof Sys2Proof.Machine

/-! ### Encoding (R83 to R92) -/

/-- R83, R84, R88: the decoder reads back every command, with every operand, from its header and from
the header's four bytes. -/
def Obligations.DecodeReadsEncodedCommand : Prop :=
  ∀ i : Instr, decode (encode i) = .ok i ∧ decodeBytes (wordBytes (encode i)) = some (.ok i)

/-- R84: a header that decodes is the encoding of its command, field by field. -/
def Obligations.EncodeGivesBackHeader : Prop :=
  ∀ (h : Word) (i : Instr), decode h = .ok i →
    encode i = h ∧ i.opc.toNat = h.toNat / 2 ^ 24 ∧ i.unit.toNat = h.toNat / 2 ^ 16 % 256 ∧
      i.sub.toNat = h.toNat / 2 ^ 8 % 256 ∧ h.toNat % 256 = 0

/-- R84, R88: the headers that the rules and the test vectors write out decode to their commands. -/
def Obligations.SpecHeadersDecode : Prop :=
  decode 0x00000000 = .ok .nop ∧ decode 0x04000000 = .ok .reset ∧
  decode 0x13020000 = .ok (.oscSetFmul 2) ∧ decode 0x21000100 = .ok (.chSetTapSrc 0 1) ∧
  decode 0x26010300 = .ok (.chSetCoef 1 3) ∧ decode 0x31000000 = .ok (.ipSetSrc 0)

/-- R89: the command that a header selects is the row whose match and mask it meets. -/
def Obligations.MaskAndMatchSelectRow : Prop :=
  ∀ (h : Word) (o : Byte),
    (∃ i, decode h = .ok i ∧ i.opc = o) ↔
      ∃ row, opRow o = some row ∧ h &&& rowMask row = (o.setWidth 32 : Word) <<< 24

/-- R86, R180 (with R87, R88, R90, R91, R145): executing a header makes the checks in order; the first that
fails is the one error the command reports, and a command that passes them all is exec of its decoded,
well-formed command. -/
def Obligations.ExecuteChecksInOrder : Prop :=
  ∀ (s : State) (h : Word),
    (∀ e, FailsWith h s.cmdArg s.maxBlock e → s.execute h = .next (s.cmdError e h)) ∧
    (PassesChecks h s.cmdArg s.maxBlock →
      ∃ i, decode h = .ok i ∧ i.wellFormed = true ∧ s.execute h = exec i s)

/-- R181, R182, R184: a failed command records itself where no error stands, and changes nothing where
one does. -/
def Obligations.FailedCommandRecordsFirstError : Prop :=
  ∀ (s : State) (e : CmdErr) (h : Word),
    (s.err = true → s.cmdError e h = s) ∧
    (s.err = false →
      (s.cmdError e h).err = true ∧ (s.cmdError e h).errCode.toNat = errorNumber e ∧
      (∀ j, j ≠ 0 → (j < 4 ∨ 8 ≤ j) → (s.cmdError e h).status.getLsbD j = s.status.getLsbD j) ∧
      ChangesOnly s (s.cmdError e h)
        [(0x010, (s.cmdError e h).status), (0x014, h), (0x018, s.cmdArg)])

/-! ### One step: the host's accesses (R66 to R82) -/

/-- R73, R86 (log entry 1): the step at which the host's next access writes a header to CMD is `exec` of
the command that the header decodes to, on the state with CMD written, or the failed command where it
decodes to none; and `withFetchWord` makes that access the next one. -/
def Obligations.StepExecutesWrittenHeader : Prop :=
  (∀ (s : State) (h : Word) (rest : List BusEvent), s.events = .write .word 0x020 h :: rest →
    (∀ i, decode h = .ok i →
      step s = exec i { s with events := rest, response := some .writeDone, cmd := h }) ∧
    (∀ e, decode h = .error e →
      step s =
        .next (State.cmdError { s with events := rest, response := some .writeDone, cmd := h } e h))) ∧
  (∀ (s : State) (i : Instr),
    step (s.withFetchWord 32 (encode i).toNat) =
      exec i { s with response := some .writeDone, cmd := encode i })

/-- R193, R198 (log entry 2): between the host's accesses the block is idle and keeps all its state. -/
def Obligations.IdleBlockKeepsState : Prop :=
  ∀ s : State, s.events = [] → step s = .next s

/-- R72: an aligned 32-bit read answers the word at the offset and changes no register and no memory. -/
def Obligations.BusReadReturnsWord : Prop :=
  ∀ (s : State) (a : Nat) (rest : List BusEvent),
    s.events = .read .word a :: rest → a < 0x10000 → a % 4 = 0 →
      ∃ t, step s = .next t ∧ t.response = some (.readData (s.readWord a)) ∧
        t = { s with events := rest, response := t.response } ∧
        (reservedOffset a → t.response = some (.readData 0))

/-- R71, R187 (log entry 3): an access of another width or alignment gets a bus error and changes no
register and no memory; such a read returns 0. -/
def Obligations.BusErrorChangesNothing : Prop :=
  ∀ (s : State) (w : Width) (a : Nat) (v : Word) (rest : List BusEvent),
    a < 0x10000 → (w ≠ .word ∨ a % 4 ≠ 0) →
      (s.events = .read w a :: rest →
        step s = .next { s with events := rest, response := some (.readError 0) }) ∧
      (s.events = .write w a v :: rest →
        step s = .next { s with events := rest, response := some .writeError })

/-- R73, R25, R201: a write to CMD_ARG stores the word and executes nothing; a write to any offset but
CMD_ARG and CMD is accepted and ignored. -/
def Obligations.BusWriteActsByOffset : Prop :=
  ∀ (s : State) (a : Nat) (v : Word) (rest : List BusEvent),
    s.events = .write .word a v :: rest → a < 0x10000 → a % 4 = 0 →
      (a = 0x01C →
        step s = .next { s with events := rest, response := some .writeDone, cmdArg := v }) ∧
      (a ≠ 0x01C → a ≠ 0x020 → step s = .next { s with events := rest, response := some .writeDone })

/-- R18, R178, R92 (log entry 4): every step completes, whatever the registers hold and whatever the
header, but for an access at an offset that the window does not have, which faults by name. -/
def Obligations.StepStopsOnlyOutsideWindow : Prop :=
  ∀ s : State,
    (∃ t, step s = .next t) ∨
    (∃ a, 0x10000 ≤ a ∧ step s = .fault (.outsideWindow a) ∧
      ((∃ w rest, s.events = .read w a :: rest) ∨ ∃ w v rest, s.events = .write w a v :: rest))

/-- R70: the byte at each offset of a word is 8 bits of it, the lowest first, and OUTBUF's words are
made of its bytes in the same order. -/
def Obligations.WordsAreLittleEndian : Prop :=
  ∀ (s : State) (a : Nat), a % 4 = 0 →
    s.readWord a = s.readByte (a + 3) ++ s.readByte (a + 2) ++ s.readByte (a + 1) ++ s.readByte a ∧
    (0x8000 ≤ a → a < 0xA000 → ∀ k < 4, s.readByte (a + k) = s.outbufByte (a + k))

/-- R67, with the tables of R26, R42, R51, R59 and R63, the constants of R27 to R30, and R68: what stands
at each offset of the window. -/
def Obligations.WindowHoldsRegisters : Prop :=
  ∀ s : State,
    ([0x00, 0x04, 0x08, 0x0C, 0x10, 0x14, 0x18, 0x1C, 0x20, 0x24, 0x28, 0x2C, 0x30, 0x34, 0x38, 0x3C,
        0x40, 0x44, 0x48, 0x4C].map s.readWord =
      [0x57494331, 0x00010000, 0x00101020, 0x00000400, s.status, s.errInfo, s.errArg, s.cmdArg, s.cmd,
        s.sampleRate, s.maxBlock, s.frameCount, s.rampTarget, s.rampTime, s.rampLen, s.rampCur,
        s.rampStep, s.rampCnt, s.lastL, s.lastR]) ∧
    (∀ n : Fin 32,
      [0x00, 0x04, 0x08, 0x0C, 0x10, 0x14, 0x18, 0x1C].map (fun k => s.readWord (oscOffset n k)) =
        [s.osc[n].freq, s.osc[n].pinc, s.osc[n].phase, s.osc[n].ctrl, s.osc[n].pw, s.osc[n].fmul,
          s.osc[n].poff, s.osc[n].out]) ∧
    (∀ c : Fin 16,
      [0x00, 0x04, 0x08, 0x0C, 0x10, 0x14, 0x18, 0x1C, 0x20, 0x24, 0x28, 0x2C, 0x30, 0x34, 0x38, 0x3C,
          0x40, 0x44, 0x48, 0x4C, 0x50, 0x54, 0x58, 0x5C, 0x60].map
          (fun k => s.readWord (chOffset c k)) =
        [s.ch[c].ctrl, s.ch[c].tapSrc[0], s.ch[c].tapSrc[1], s.ch[c].tapSrc[2], s.ch[c].tapSrc[3],
          s.ch[c].tapGain[0], s.ch[c].tapGain[1], s.ch[c].tapGain[2], s.ch[c].tapGain[3],
          s.ch[c].offset, s.ch[c].clip, s.ch[c].b0, s.ch[c].b1, s.ch[c].b2, s.ch[c].a1, s.ch[c].a2,
          s.ch[c].x1, s.ch[c].x2, s.ch[c].y1, s.ch[c].y2, s.ch[c].dry, s.ch[c].wet, s.ch[c].gain,
          s.ch[c].pan, s.ch[c].out]) ∧
    (∀ k : Fin 16,
      [0x00, 0x04, 0x08, 0x0C, 0x10, 0x14].map (fun r => s.readWord (ipOffset k r)) =
        [s.ip[k].ctrl, s.ip[k].src, s.ip[k].dest, s.ip[k].minVal, s.ip[k].maxVal, s.ip[k].out]) ∧
    (∀ i < 1024,
      s.readWord (0x8000 + 8 * i) = s.outbufWord (0x8000 + 8 * i) ∧
      s.readWord (0x8004 + 8 * i) = s.outbufWord (0x8004 + 8 * i)) ∧
    (∀ a, reservedOffset a → s.readWord a = 0)

/-- R96, R94: the bus writes of an assembled line execute its command with its ARG. -/
def Obligations.AssembledLineExecutes : Prop :=
  ∀ (s : State) (i : Instr) (rest : List BusEvent),
    (∀ a, s.events = Line.writes ⟨i, some a⟩ ++ rest →
      ∃ t, step s = .next t ∧
        step t =
          exec i { s with events := rest, response := some .writeDone, cmdArg := a, cmd := encode i }) ∧
    (s.events = Line.writes ⟨i, none⟩ ++ rest →
      step s = exec i { s with events := rest, response := some .writeDone, cmd := encode i })

/-! ### Reset (R195 to R198) -/

/-- R195, R198 and the reset columns of R26, R42, R51 and R59: what every register holds at reset. -/
def Obligations.ResetRegisterValues : Prop :=
  (State.reset.status = 0 ∧ State.reset.errInfo = 0 ∧ State.reset.errArg = 0 ∧
    State.reset.cmdArg = 0 ∧ State.reset.cmd = 0 ∧ State.reset.sampleRate = 44100 ∧
    State.reset.maxBlock = 512 ∧ State.reset.frameCount = 0 ∧ State.reset.rampTarget = 0 ∧
    State.reset.rampTime = 0 ∧ State.reset.rampLen = 0 ∧ State.reset.rampCur = 0 ∧
    State.reset.rampStep = 0 ∧ State.reset.rampCnt = 0 ∧ State.reset.lastL = 0 ∧
    State.reset.lastR = 0) ∧
  (∀ n : Fin 32,
    State.reset.osc[n] =
      { freq := 0, pinc := 0, phase := 0, ctrl := 0, pw := 0x00800000, fmul := 0x01000000, poff := 0,
        out := 0 }) ∧
  (∀ c : Fin 16,
    State.reset.ch[c] =
      { ctrl := 0, tapSrc := #v[0xFF, 0xFF, 0xFF, 0xFF], tapGain := #v[0, 0, 0, 0], offset := 0,
        clip := 0x00800000, b0 := 0x01000000, b1 := 0, b2 := 0, a1 := 0, a2 := 0, x1 := 0, x2 := 0,
        y1 := 0, y2 := 0, dry := 0, wet := 0x01000000, gain := 0x01000000, pan := 0, out := 0 }) ∧
  (∀ k : Fin 16,
    State.reset.ip[k] = { ctrl := 0, src := 0, dest := 0, minVal := 0, maxVal := 0, out := 0 })

/-- R195, R197 (log entries 6 and 9): the hardware reset gives every register its reset value, and every
byte of OUTBUF the free value of that reset. That the host's coming accesses survive it is the
model's choice. -/
def Obligations.HardwareResetState : Prop :=
  ∀ (s : State) (rest : List BusEvent), s.events = .hardReset :: rest →
    ∃ t, step s = .next t ∧ t.events = rest ∧
      (∀ a, a % 4 = 0 → a < 0x8000 → t.readWord a = State.reset.readWord a) ∧
      (∀ a, 0x8000 ≤ a → a < 0xA000 → t.readByte a = Config.outbufPowerOn (s.powerOns + 1) a)

/-- R176, R196, R34: RESET gives every register its reset value but CMD, and leaves OUTBUF. -/
def Obligations.ResetCommandState : Prop :=
  ∀ s : State,
    ∃ t, exec .reset s = .next t ∧ t.readWord 0x020 = s.readWord 0x020 ∧
      (∀ a, a % 4 = 0 → a < 0x8000 → a ≠ 0x020 → t.readWord a = State.reset.readWord a) ∧
      (∀ a, a % 4 = 0 → 0x8000 ≤ a → t.readWord a = s.readWord a) ∧
      (∀ a, 0x8000 ≤ a → t.readByte a = s.readByte a) ∧ SameSurroundings s t

/-- R198, R159: while RAMP_CUR and RAMP_CNT are 0 every sample that RENDER writes is 0, whatever units are
enabled. -/
def Obligations.SilentUntilRampIsSet : Prop :=
  ∀ s : State, s.rampCur = 0 → s.rampCnt = 0 → s.cmdArg.toNat ≤ s.maxBlock.toNat →
    s.maxBlock.toNat ≤ 1024 →
      ∃ t, exec .render s = .next t ∧ t.rampCur = 0 ∧ t.rampCnt = 0 ∧
        (∀ i < s.cmdArg.toNat, t.readWord (0x8000 + 8 * i) = 0 ∧ t.readWord (0x8004 + 8 * i) = 0) ∧
        (0 < s.cmdArg.toNat → t.lastL = 0 ∧ t.lastR = 0)

/-! ### Global commands (R172 to R177) -/

/-- R172: NOP completes and does nothing. -/
def Obligations.NopDoesNothing : Prop :=
  ∀ s : State, exec .nop s = .next s

/-- R173, R100, R39: SET_SAMPLE_RATE writes the rate, every PINC and RAMP_LEN, sets STATUS.RANGE where
some frequency reaches the rate, and changes nothing else. -/
def Obligations.SetSampleRateEffect : Prop :=
  ∀ s : State, s.cmdArg.toNat ≠ 0 →
    ∃ t, exec .setSampleRate s = .next t ∧
      ChangesOnly s t
        ([(0x024, s.cmdArg),
          (0x038, BitVec.ofNat 32 (min (s.rampTime.toNat * s.cmdArg.toNat / 1000) (2 ^ 32 - 1))),
          (0x010, flagged s.status 0x100
            (decide (∃ n : Fin 32, s.cmdArg.toNat * 2 ^ 16 ≤ s.osc[n].freq.toNat)))] ++
        (List.finRange 32).map fun n : Fin 32 =>
          (oscOffset n 0x04, BitVec.ofNat 32 (s.osc[n].freq.toNat * 2 ^ 16 / s.cmdArg.toNat)))

/-- R174: SET_MAX_BLOCK writes MAX_BLOCK and nothing else. -/
def Obligations.SetMaxBlockEffect : Prop :=
  ∀ s : State, 1 ≤ s.cmdArg.toNat → s.cmdArg.toNat ≤ 1024 →
    ∃ t, exec .setMaxBlock s = .next t ∧ ChangesOnly s t [(0x028, s.cmdArg)]

/-- R177: CLEAR_STATUS clears what the mask names, ERRCODE, ERRINFO and ERRARG together with ERR, and
nothing else. -/
def Obligations.ClearStatusEffect : Prop :=
  ∀ s : State, s.cmdArg &&& 0xFFFFFCFE = 0 →
    ∃ t, exec .clearStatus s = .next t ∧
      ChangesOnly s t
        [(0x010,
          s.status &&& ~~~((if s.cmdArg.getLsbD 0 then 0xF1 else 0) |||
            (if s.cmdArg.getLsbD 8 then 0x100 else 0) ||| (if s.cmdArg.getLsbD 9 then 0x200 else 0))),
         (0x014, if s.cmdArg.getLsbD 0 then 0 else s.errInfo),
         (0x018, if s.cmdArg.getLsbD 0 then 0 else s.errArg)]

/-- R175, R170, R74, R37, R41, R146: RENDER N completes; it counts N frames, writes OUTBUF's entries below N
only, leaves LAST_L and LAST_R equal to the last entry written, and changes no register that neither a stage
of a frame writes itself nor the DEST of an enabled interpolator names. -/
def Obligations.RenderCompletesWithFrame : Prop :=
  ∀ s : State, s.cmdArg.toNat ≤ s.maxBlock.toNat → s.maxBlock.toNat ≤ 1024 →
    ∃ t, exec .render s = .next t ∧ (s.cmdArg = 0 → t = s) ∧
      t.frameCount = s.frameCount + s.cmdArg ∧
      (∀ a ∈ [0x014, 0x018, 0x01C, 0x020, 0x024, 0x028, 0x030, 0x034, 0x038, 0x040],
        t.readWord a = s.readWord a) ∧
      (∀ j, j ≠ 8 → j ≠ 9 → t.status.getLsbD j = s.status.getLsbD j) ∧
      (∀ a, a % 4 = 0 → ¬stageWritten s.cmdArg.toNat a → (∀ k : Fin 16, s.drives k a = false) →
        t.readWord a = s.readWord a ∧ ∀ j < 4, t.readByte (a + j) = s.readByte (a + j)) ∧
      (∀ n : Fin 32, t.osc[n].freq = s.osc[n].freq ∧ t.osc[n].pinc = s.osc[n].pinc ∧
        t.osc[n].ctrl = s.osc[n].ctrl) ∧
      (∀ c : Fin 16, t.ch[c].ctrl = s.ch[c].ctrl ∧ t.ch[c].tapSrc = s.ch[c].tapSrc) ∧
      (∀ k : Fin 16, t.ip[k].ctrl = s.ip[k].ctrl ∧ t.ip[k].src = s.ip[k].src ∧
        t.ip[k].dest = s.ip[k].dest) ∧
      (∀ a, a % 4 = 0 → 0x8000 + 8 * s.cmdArg.toNat ≤ a → t.readWord a = s.readWord a) ∧
      (∀ a, 0x8000 + 8 * s.cmdArg.toNat ≤ a → t.readByte a = s.readByte a) ∧
      (0 < s.cmdArg.toNat →
        t.readWord (0x8000 + 8 * (s.cmdArg.toNat - 1)) = t.lastL ∧
        t.readWord (0x8004 + 8 * (s.cmdArg.toNat - 1)) = t.lastR) ∧
      SameSurroundings s t

/-- R175, R206, R207: a block of n + m frames leaves the registers that a block of n and then a block of
m frames leave; the second block's output stands at the entries from 0 up. -/
def Obligations.RenderSplitsIntoBlocks : Prop :=
  ∀ (s : State) (n m : Nat), n + m ≤ s.maxBlock.toNat → s.maxBlock.toNat ≤ 1024 →
    ∃ t u v,
      exec .render { s with cmdArg := BitVec.ofNat 32 (n + m) } = .next t ∧
      exec .render { s with cmdArg := BitVec.ofNat 32 n } = .next u ∧
      exec .render { u with cmdArg := BitVec.ofNat 32 m } = .next v ∧
      SameRegisters { t with cmdArg := 0 } { v with cmdArg := 0 } ∧
      (∀ i < n, u.readWord (0x8000 + 8 * i) = t.readWord (0x8000 + 8 * i) ∧
        u.readWord (0x8004 + 8 * i) = t.readWord (0x8004 + 8 * i)) ∧
      (∀ i < m, v.readWord (0x8000 + 8 * i) = t.readWord (0x8000 + 8 * (n + i)) ∧
        v.readWord (0x8004 + 8 * i) = t.readWord (0x8004 + 8 * (n + i)))

/-! ### Master ramp (R157 to R163) -/

/-- R161: RAMP_SET_TARGET jumps to the target where RAMP_LEN is 0, and else starts a ramp of RAMP_LEN
frames with the truncated quotient as its step, which fits the register. -/
def Obligations.RampSetTargetEffect : Prop :=
  ∀ s : State,
    ∃ t, exec .rampSetTarget s = .next t ∧
      (s.rampLen.toNat = 0 →
        ChangesOnly s t [(0x030, s.cmdArg), (0x03C, s.cmdArg), (0x044, 0), (0x040, 0)]) ∧
      (s.rampLen.toNat = 1 →
        ChangesOnly s t [(0x030, s.cmdArg), (0x044, s.rampLen), (0x040, 0)]) ∧
      (2 ≤ s.rampLen.toNat →
        ChangesOnly s t [(0x030, s.cmdArg), (0x044, s.rampLen), (0x040, t.rampStep)] ∧
        t.rampStep.toInt = Int.tdiv (s.cmdArg.toInt - s.rampCur.toInt) s.rampLen.toNat)

/-- R162, R163: RAMP_SET_TIME writes RAMP_TIME and RAMP_LEN, RAMP_SET_VALUE ends the ramp at a value;
neither changes anything else. -/
def Obligations.RampTimeAndValueEffect : Prop :=
  ∀ s : State,
    (∃ t, exec .rampSetTime s = .next t ∧
      ChangesOnly s t
        [(0x034, s.cmdArg),
         (0x038, BitVec.ofNat 32 (min (s.cmdArg.toNat * s.sampleRate.toNat / 1000) (2 ^ 32 - 1)))]) ∧
    (∃ t, exec .rampSetValue s = .next t ∧
      ChangesOnly s t [(0x03C, s.cmdArg), (0x030, s.cmdArg), (0x044, 0), (0x040, 0)])

/-- R160: after RAMP_SET_TARGET with RAMP_LEN at least 1 the ramp is linear for all frames but the last,
reaches the target in frame RAMP_LEN and holds it; the last step absorbs less than RAMP_LEN LSB. -/
def Obligations.RampIsLinearAndReachesTarget : Prop :=
  ∀ s : State, 1 ≤ s.rampLen.toNat →
    ∃ t, exec .rampSetTarget s = .next t ∧
      (∀ j, 1 ≤ j → j ≤ s.rampLen.toNat - 1 →
        (t.renderBlock j).rampCur.toInt =
          s.rampCur.toInt +
            j * Int.tdiv (s.cmdArg.toInt - s.rampCur.toInt) s.rampLen.toNat) ∧
      (∀ j, s.rampLen.toNat ≤ j → (t.renderBlock j).rampCur = s.cmdArg) ∧
      |s.cmdArg.toInt - (s.rampCur.toInt +
        s.rampLen.toNat * Int.tdiv (s.cmdArg.toInt - s.rampCur.toInt) s.rampLen.toNat)| ≤
          s.rampLen.toNat - 1

/-! ### Oscillators (R99 to R121, R213) -/

/-- R112, R100, R43: OSC_SET_FREQ stores the frequency, computes PINC and sets STATUS.RANGE where the
frequency reaches the rate; nothing else changes. SAMPLE_RATE is never 0 (R35). -/
def Obligations.OscSetFreqEffect : Prop :=
  ∀ (s : State) (u : Byte), u.toNat < 32 → s.sampleRate.toNat ≠ 0 →
    ∃ t, exec (.oscSetFreq u) s = .next t ∧
      ChangesOnly s t
        [(oscOffset u.toNat 0x00, s.cmdArg),
         (oscOffset u.toNat 0x04, BitVec.ofNat 32 (s.cmdArg.toNat * 2 ^ 16 / s.sampleRate.toNat)),
         (0x010, flagged s.status 0x100 (decide (s.sampleRate.toNat * 2 ^ 16 ≤ s.cmdArg.toNat)))]

/-- R114 to R117: OSC_SET_PW, OSC_SET_FMUL, OSC_SET_POFF and OSC_SET_PHASE store the operand in their
register and change nothing else. -/
def Obligations.OscParameterWrites : Prop :=
  ∀ (s : State) (u : Byte), u.toNat < 32 →
    (∃ t, exec (.oscSetPw u) s = .next t ∧ ChangesOnly s t [(oscOffset u.toNat 0x10, s.cmdArg)]) ∧
    (∃ t, exec (.oscSetFmul u) s = .next t ∧ ChangesOnly s t [(oscOffset u.toNat 0x14, s.cmdArg)]) ∧
    (∃ t, exec (.oscSetPoff u) s = .next t ∧ ChangesOnly s t [(oscOffset u.toNat 0x18, s.cmdArg)]) ∧
    (∃ t, exec (.oscSetPhase u) s = .next t ∧ ChangesOnly s t [(oscOffset u.toNat 0x08, s.cmdArg)])

/-- R113, R118, R119: OSC_SET_WAVE, OSC_SET_MODE and OSC_ENABLE write their fields of CTRL and leave its
other bits and everything else. -/
def Obligations.OscControlWrites : Prop :=
  ∀ (s : State) (u : Byte) (hu : u.toNat < 32),
    (s.cmdArg.toNat ≤ 3 →
      ∃ t, exec (.oscSetWave u) s = .next t ∧
        ChangesOnly s t
          [(oscOffset u.toNat 0x0C, (s.osc[u.toNat]'hu).ctrl &&& (~~~(0x03 : Word)) ||| s.cmdArg)]) ∧
    (s.cmdArg.toNat < 8 → s.cmdArg.toNat % 4 ≠ 3 →
      ∃ t, exec (.oscSetMode u) s = .next t ∧
        ChangesOnly s t
          [(oscOffset u.toNat 0x0C, (s.osc[u.toNat]'hu).ctrl &&& (~~~(0x1C : Word)) ||| s.cmdArg <<< 2)]) ∧
    (s.cmdArg.toNat ≤ 1 →
      ∃ t, exec (.oscEnable u) s = .next t ∧
        ChangesOnly s t
          [(oscOffset u.toNat 0x0C, (s.osc[u.toNat]'hu).ctrl &&& (~~~(0x20 : Word)) ||| s.cmdArg <<< 5)])

/-- R120, R101: OSC_STEP advances the phase by floor(PINC * FMUL / 2^24), modulo 2^32, sets STATUS.RANGE
where that increment is outside [0, 2^32), and changes nothing else. -/
def Obligations.OscStepEffect : Prop :=
  ∀ (s : State) (u : Byte) (hu : u.toNat < 32),
    ∃ t, exec (.oscStep u) s = .next t ∧
      ChangesOnly s t
        [(oscOffset u.toNat 0x08,
          BitVec.ofInt 32 ((s.osc[u.toNat]'hu).phase.toNat + phaseStep (s.osc[u.toNat]'hu))),
         (0x010, flagged s.status 0x100
          (decide (phaseStep (s.osc[u.toNat]'hu) < 0 ∨ 2 ^ 32 ≤ phaseStep (s.osc[u.toNat]'hu))))]

/-- R121, R101, R104 to R108: OSC_TICK does what OSC_STEP does and then writes OUT, the waveform that
WAVE selects at the new phase plus POFF. -/
def Obligations.OscTickEffect : Prop :=
  ∀ (s : State) (u : Byte) (hu : u.toNat < 32) (p : Word),
    p = BitVec.ofInt 32 ((s.osc[u.toNat]'hu).phase.toNat + phaseStep (s.osc[u.toNat]'hu)) →
    ∃ t, exec (.oscTick u) s = .next t ∧
      ChangesOnly s t
        [(oscOffset u.toNat 0x08, p),
         (oscOffset u.toNat 0x1C, BitVec.ofInt 32
          (waveformValue ((s.osc[u.toNat]'hu).ctrl.toNat % 4) (p + (s.osc[u.toNat]'hu).poff)
            (s.osc[u.toNat]'hu).pw.toInt)),
         (0x010, flagged s.status 0x100
          (decide (phaseStep (s.osc[u.toNat]'hu) < 0 ∨ 2 ^ 32 ≤ phaseStep (s.osc[u.toNat]'hu))))]

/-- R102: for an increment in [0, 2^32) an advance subtracts one cycle exactly where the sum reaches it,
and sets no flag; for every other increment STATUS.RANGE records it. -/
def Obligations.AdvanceSubtractsOneCycle : Prop :=
  ∀ (s : State) (u : Byte) (hu : u.toNat < 32),
    ∃ t, exec (.oscStep u) s = .next t ∧
      (∀ d : Nat, phaseStep (s.osc[u.toNat]'hu) = d → d < 2 ^ 32 →
        t.status = s.status ∧
        (t.osc[u.toNat]'hu).phase.toNat =
          if (s.osc[u.toNat]'hu).phase.toNat + d < 2 ^ 32 then (s.osc[u.toNat]'hu).phase.toNat + d
          else (s.osc[u.toNat]'hu).phase.toNat + d - 2 ^ 32) ∧
      (phaseStep (s.osc[u.toNat]'hu) < 0 ∨ 2 ^ 32 ≤ phaseStep (s.osc[u.toNat]'hu) →
        t.rangeFlag = true)

/-- R106, R107, R108: the square is +0.5 exactly where p <= pulse width on the reals, with its corner
cases; the triangle is |p - 0.5| - 0.5 and the saw p - 0.5, with p truncated to 24 bits. -/
def Obligations.WaveformLaws : Prop :=
  ∀ (q : Word) (pw : Int),
    ((q.toNat : ℚ) / 2 ^ 32 ≤ (pw : ℚ) / 2 ^ 24 ↔ (q.toNat : Int) ≤ pw * 2 ^ 8) ∧
    ((q.toNat : ℚ) / 2 ^ 32 ≤ (pw : ℚ) / 2 ^ 24 → squareWave q pw = 0x800000) ∧
    ((pw : ℚ) / 2 ^ 24 < (q.toNat : ℚ) / 2 ^ 32 → squareWave q pw = -0x800000) ∧
    (pw < 0 → squareWave q pw = -0x800000) ∧
    (2 ^ 24 ≤ pw → squareWave q pw = 0x800000) ∧
    (pw = 0 → (squareWave q pw = 0x800000 ↔ q = 0)) ∧
    (pw = 0x800000 → (squareWave q pw = 0x800000 ↔ q.toNat ≤ 2 ^ 31)) ∧
    ((triangleWave q : ℚ) / 2 ^ 24 = |((q.toNat / 2 ^ 8 : Nat) : ℚ) / 2 ^ 24 - 1 / 2| - 1 / 2) ∧
    ((sawWave q : ℚ) / 2 ^ 24 = ((q.toNat / 2 ^ 8 : Nat) : ℚ) / 2 ^ 24 - 1 / 2) ∧
    (-0x800000 ≤ triangleWave q ∧ triangleWave q ≤ 0) ∧
    (-0x800000 ≤ sawWave q ∧ sawWave q < 0x800000) ∧
    (q = 0 → triangleWave q = 0 ∧ sawWave q = -0x800000) ∧
    (q = 0x80000000 → triangleWave q = -0x800000 ∧ sawWave q = 0) ∧
    (q = 0xFFFFFFFF → triangleWave q = -1 ∧ sawWave q = 0x7FFFFF)

/-- R109: the sample that an evaluation writes is in its waveform's range, for every table SINE may be,
and STATUS.SAT is left alone. -/
def Obligations.SamplesStayInRange : Prop :=
  ∀ (s : State) (u : Byte) (hu : u.toNat < 32),
    ∃ t, exec (.oscTick u) s = .next t ∧ t.satFlag = s.satFlag ∧
      ((s.osc[u.toNat]'hu).wave = 0 →
        -0x1000000 ≤ fx (t.osc[u.toNat]'hu).out ∧ fx (t.osc[u.toNat]'hu).out ≤ 0x1000000) ∧
      ((s.osc[u.toNat]'hu).wave = 1 →
        fx (t.osc[u.toNat]'hu).out = 0x800000 ∨ fx (t.osc[u.toNat]'hu).out = -0x800000) ∧
      ((s.osc[u.toNat]'hu).wave = 2 →
        -0x800000 ≤ fx (t.osc[u.toNat]'hu).out ∧ fx (t.osc[u.toNat]'hu).out ≤ 0) ∧
      ((s.osc[u.toNat]'hu).wave = 3 →
        -0x800000 ≤ fx (t.osc[u.toNat]'hu).out ∧ fx (t.osc[u.toNat]'hu).out < 0x800000)

/-- R213: with a constant increment d in (0, 2^32) the phase after k advances is p0 + k d modulo 2^32, its
period is 2^32 / gcd(d, 2^32), the first wrap is one of the first ceil(2^32 / d) advances, and between
two successive wraps there are floor(2^32 / d) or ceil(2^32 / d) advances. -/
def Obligations.PhasePeriod : Prop :=
  ∀ (o : Osc) (d : Nat), o.increment = d → 0 < d → d < 2 ^ 32 →
    ∀ wraps : Nat → Prop,
      (∀ k, wraps k ↔ 2 ^ 32 ≤ (Osc.advance^[k] o).phase.toNat + d) →
      (∀ k, (Osc.advance^[k] o).phase.toNat = (o.phase.toNat + k * d) % 2 ^ 32) ∧
      (∀ k, (Osc.advance^[k] o).phase = o.phase ↔ 2 ^ 32 / Nat.gcd d (2 ^ 32) ∣ k) ∧
      (∃ k < (2 ^ 32 + d - 1) / d, wraps k) ∧
      (∀ i j, i < j → wraps i → wraps j → (∀ l, i < l → l < j → ¬wraps l) →
        j - i = 2 ^ 32 / d ∨ j - i = (2 ^ 32 + d - 1) / d)

/-! ### Channels (R122 to R140) -/

/-- R132, R133, R137 to R140: the six channel commands that set one parameter store the operand in their
register and change nothing else. -/
def Obligations.ChannelParameterWrites : Prop :=
  ∀ (s : State) (u : Byte), u.toNat < 16 →
    (∃ t, exec (.chSetOffset u) s = .next t ∧ ChangesOnly s t [(chOffset u.toNat 0x24, s.cmdArg)]) ∧
    (∃ t, exec (.chSetClip u) s = .next t ∧ ChangesOnly s t [(chOffset u.toNat 0x28, s.cmdArg)]) ∧
    (∃ t, exec (.chSetDry u) s = .next t ∧ ChangesOnly s t [(chOffset u.toNat 0x50, s.cmdArg)]) ∧
    (∃ t, exec (.chSetWet u) s = .next t ∧ ChangesOnly s t [(chOffset u.toNat 0x54, s.cmdArg)]) ∧
    (∃ t, exec (.chSetGain u) s = .next t ∧ ChangesOnly s t [(chOffset u.toNat 0x58, s.cmdArg)]) ∧
    (∃ t, exec (.chSetPan u) s = .next t ∧ ChangesOnly s t [(chOffset u.toNat 0x5C, s.cmdArg)])

/-- R129, R134: CH_ENABLE and CH_SET_FLAGS write their bits of CTRL and leave its other bits and
everything else. -/
def Obligations.ChannelControlWrites : Prop :=
  ∀ (s : State) (u : Byte) (hu : u.toNat < 16),
    (s.cmdArg.toNat ≤ 1 →
      ∃ t, exec (.chEnable u) s = .next t ∧
        ChangesOnly s t [(chOffset u.toNat 0x00, (s.ch[u.toNat]'hu).ctrl &&& (~~~(0x1 : Word)) ||| s.cmdArg)]) ∧
    (s.cmdArg.toNat < 8 →
      ∃ t, exec (.chSetFlags u) s = .next t ∧
        ChangesOnly s t
          [(chOffset u.toNat 0x00, (s.ch[u.toNat]'hu).ctrl &&& (~~~(0xE : Word)) ||| s.cmdArg <<< 1)])

/-- R130, R131: CH_SET_TAP_SRC and CH_SET_TAP_GAIN write tap SUB and change nothing else. -/
def Obligations.ChannelTapWrites : Prop :=
  ∀ (s : State) (u t : Byte), u.toNat < 16 → t.toNat < 4 →
    (s.cmdArg.toNat < 32 ∨ s.cmdArg.toNat = 0xFF →
      ∃ s', exec (.chSetTapSrc u t) s = .next s' ∧
        ChangesOnly s s' [(chOffset u.toNat (0x04 + 4 * t.toNat), s.cmdArg)]) ∧
    (∃ s', exec (.chSetTapGain u t) s = .next s' ∧
      ChangesOnly s s' [(chOffset u.toNat (0x14 + 4 * t.toNat), s.cmdArg)])

/-- R135, R136: CH_SET_COEF writes coefficient SUB in the order B0, B1, B2, A1, A2; CH_CLEAR_HIST zeroes
the four history registers; neither changes anything else. -/
def Obligations.ChannelCoefficientAndHistoryWrites : Prop :=
  ∀ (s : State) (u t : Byte), u.toNat < 16 →
    (t.toNat < 5 →
      ∃ s', exec (.chSetCoef u t) s = .next s' ∧
        ChangesOnly s s' [(chOffset u.toNat (0x2C + 4 * t.toNat), s.cmdArg)]) ∧
    (∃ s', exec (.chClearHist u) s = .next s' ∧
      ChangesOnly s s'
        [(chOffset u.toNat 0x40, 0), (chOffset u.toNat 0x44, 0), (chOffset u.toNat 0x48, 0),
         (chOffset u.toNat 0x4C, 0)])

/-! ### Interpolators (R141 to R153) -/

/-- R149 to R153: the five interpolator commands write their register, IP_ENABLE only bit 0 of it, and
change nothing else. -/
def Obligations.InterpolatorWrites : Prop :=
  ∀ (s : State) (u : Byte) (hu : u.toNat < 16),
    (s.cmdArg.toNat ≤ 1 →
      ∃ t, exec (.ipEnable u) s = .next t ∧
        ChangesOnly s t [(ipOffset u.toNat 0x00, (s.ip[u.toNat]'hu).ctrl &&& (~~~(0x1 : Word)) ||| s.cmdArg)]) ∧
    (s.cmdArg.toNat < 32 →
      ∃ t, exec (.ipSetSrc u) s = .next t ∧ ChangesOnly s t [(ipOffset u.toNat 0x04, s.cmdArg)]) ∧
    (validDestination s.cmdArg →
      ∃ t, exec (.ipSetDest u) s = .next t ∧ ChangesOnly s t [(ipOffset u.toNat 0x08, s.cmdArg)]) ∧
    (∃ t, exec (.ipSetMin u) s = .next t ∧ ChangesOnly s t [(ipOffset u.toNat 0x0C, s.cmdArg)]) ∧
    (∃ t, exec (.ipSetMax u) s = .next t ∧ ChangesOnly s t [(ipOffset u.toNat 0x10, s.cmdArg)])

/-- R144: the affine map gives MIN at -1.0, MAX at +1.0 and the floored middle at 0, stays between MIN and
MAX, so that its sat32 never clamps, and is monotone in the direction of MIN and MAX. -/
def Obligations.InterpolatorMapProperties : Prop :=
  ∀ (i : Interp) (x x' : Int),
    (x = -0x1000000 → i.mapRaw x = fx i.minVal) ∧
    (x = 0x1000000 → i.mapRaw x = fx i.maxVal) ∧
    (x = 0 → i.mapRaw x = fx i.minVal + (fx i.maxVal - fx i.minVal) / 2) ∧
    (-0x1000000 ≤ x → x ≤ 0x1000000 →
      min (fx i.minVal) (fx i.maxVal) ≤ i.mapRaw x ∧ i.mapRaw x ≤ max (fx i.minVal) (fx i.maxVal) ∧
      sat32 (i.mapRaw x) = i.mapRaw x ∧ saturates (i.mapRaw x) = false) ∧
    (x ≤ x' → fx i.minVal ≤ fx i.maxVal → i.mapRaw x ≤ i.mapRaw x') ∧
    (x ≤ x' → fx i.maxVal < fx i.minVal → i.mapRaw x' ≤ i.mapRaw x)

/-! ### The frame pipeline (R164 to R170), seen through RENDER 1 -/

/-- R165, R167, R103, R110, R101: in a frame an enabled LFO_ONCE oscillator fires once, on the registers
it had before the frame; an enabled AUDIO oscillator fires once on those that the interpolators left,
from the phase it had before the frame. STATUS.RANGE is set afterwards exactly where it was set before
or some firing advanced by an increment outside [0, 2^32): of an LFO_ONCE oscillator, of an AUDIO one,
or of a LFO_PER_READ one with the FMUL that its reader saw. -/
def Obligations.OscillatorsFireOncePerFrame : Prop :=
  ∀ s : State, s.cmdArg = 1 → 1 ≤ s.maxBlock.toNat →
    ∃ t, exec .render s = .next t ∧
      (∀ n : Fin 32, s.osc[n].en = true →
        (s.osc[n].mode = modeLfoOnce →
          t.osc[n].phase = s.osc[n].fired.phase ∧ t.osc[n].out = s.osc[n].fired.out) ∧
        (s.osc[n].mode = modeAudio →
          t.osc[n].phase = (Osc.fired { t.osc[n] with phase := s.osc[n].phase }).phase ∧
          t.osc[n].out = (Osc.fired { t.osc[n] with phase := s.osc[n].phase }).out)) ∧
      (s.destsValid →
        (t.rangeFlag = true ↔
          s.rangeFlag = true ∨
          ∃ n : Fin 32, s.osc[n].en = true ∧
            ((s.osc[n].mode = modeLfoOnce ∧ outsideCycle (phaseStep s.osc[n])) ∨
              (s.osc[n].mode = modeAudio ∧ outsideCycle (phaseStep t.osc[n])) ∨
              (s.osc[n].mode = modeLfoPerRead ∧
                ∃ k : Fin 16, s.ip[k].en = true ∧ s.ip[k].src.toNat = n.val ∧
                  outsideCycle (phaseStep { s.osc[n] with fmul := s.seenBy t k (oscOffset n 0x14) })))))

/-- R142, R143, R146, R147, R148, R204: in a frame an enabled LFO_PER_READ oscillator fires once for each
enabled interpolator that reads it, in ascending order, each time on the PW, FMUL and POFF that the
lower interpolators left, and each reader maps a draw of its own with the MIN and MAX it sees, and
writes it to the register its DEST names unless a higher one does. Where no interpolator drives the
oscillator, it is fired as often as it has readers. -/
def Obligations.PerReadOscillatorDrawsPerReader : Prop :=
  ∀ s : State, s.cmdArg = 1 → 1 ≤ s.maxBlock.toNat → s.destsValid →
    ∃ t, exec .render s = .next t ∧
      ∀ n : Fin 32, s.osc[n].en = true → s.osc[n].mode = modeLfoPerRead →
        t.osc[n].phase = (s.drawnBy t n 16).phase ∧ t.osc[n].out = (s.drawnBy t n 16).out ∧
        (∀ k : Fin 16, s.ip[k].en = true → s.ip[k].src.toNat = n.val →
          fx t.ip[k].out =
            affineMap (fx (s.seenBy t k (ipOffset k 0x0C))) (fx (s.seenBy t k (ipOffset k 0x10)))
              (fx (s.drawnBy t n (k + 1)).out) ∧
          (s.ip[k].dest ≠ 0 → (∀ j : Fin 16, k < j → s.drives j (destOffset s.ip[k].dest) = false) →
            t.readWord (destOffset s.ip[k].dest) = destWord s.ip[k].dest (fx t.ip[k].out))) ∧
        ((∀ k : Fin 16, s.drives k (oscOffset n 0x10) = false ∧ s.drives k (oscOffset n 0x14) = false ∧
            s.drives k (oscOffset n 0x18) = false) →
          t.osc[n] = Osc.fired^[s.readersUpTo n 15] s.osc[n] ∧
          ∀ k : Fin 16, s.drawnBy t n (k + 1) = Osc.fired^[s.readersUpTo n k] s.osc[n])

/-- R141, R142, R143, R146, R147: in a frame an enabled interpolator maps its source's OUT with the MIN and
MAX that the lower interpolators left: the OUT of the frame before for an enabled AUDIO oscillator, the
OUT of this frame for an LFO_ONCE or a disabled one, and the last draw for the last reader of a
LFO_PER_READ one. The value reaches the register its DEST names, unless a higher interpolator writes
the same register. -/
def Obligations.InterpolatorMapsSourceToDestination : Prop :=
  ∀ (s : State) (k : Fin 16) (n : Fin 32), Inv s → s.cmdArg = 1 →
    s.ip[k].en = true → s.ip[k].src.toNat = n.val →
    ∃ t, exec .render s = .next t ∧
      ((s.osc[n].en = true → s.osc[n].mode = modeLfoPerRead →
          ∀ j : Fin 16, k < j → s.ip[j].en = true → s.ip[j].src.toNat ≠ n.val) →
        fx t.ip[k].out =
          affineMap (fx (s.seenBy t k (ipOffset k 0x0C))) (fx (s.seenBy t k (ipOffset k 0x10)))
            (if s.osc[n].en = true ∧ s.osc[n].mode = modeAudio then fx s.osc[n].out
              else fx t.osc[n].out)) ∧
      (s.ip[k].dest ≠ 0 → (∀ j : Fin 16, k < j → s.drives j (destOffset s.ip[k].dest) = false) →
        t.readWord (destOffset s.ip[k].dest) = destWord s.ip[k].dest (fx t.ip[k].out))

/-- R122 to R127, R168: in a frame every enabled channel computes its tap sum from the OUT values of the
frame, its clip, its filter on the history from before the frame (or the bypass, which freezes it), its
crossfade and its gain, on the parameters that the interpolators left. -/
def Obligations.ChannelComputesFrame : Prop :=
  ∀ s : State, Inv s → s.cmdArg = 1 →
    ∃ t, exec .render s = .next t ∧
      ∀ c : Fin 16, s.ch[c].en = true →
        ∀ x0 x y : Int,
          x0 = sat32 ((fx t.ch[c].offset * 2 ^ 24 +
            ∑ j : Fin 4, if t.ch[c].tapSrc[j] = 0xFF then 0
              else fx t.ch[c].tapGain[j] * t.outAt t.ch[c].tapSrc[j]) / 2 ^ 24) →
          x = (if t.ch[c].clipEn = true ∧ fx t.ch[c].clip < x0 then fx t.ch[c].clip else x0) →
          y = (if t.ch[c].filtEn then
              sat32 ((fx t.ch[c].b0 * x + fx t.ch[c].b1 * fx s.ch[c].x1 + fx t.ch[c].b2 * fx s.ch[c].x2 -
                fx t.ch[c].a1 * fx s.ch[c].y1 - fx t.ch[c].a2 * fx s.ch[c].y2) / 2 ^ 24)
            else x) →
          fx t.ch[c].out =
            sat32 (fx t.ch[c].gain * sat32 ((fx t.ch[c].dry * x + fx t.ch[c].wet * y) / 2 ^ 24) / 2 ^ 24) ∧
          (t.ch[c].filtEn = true →
            fx t.ch[c].x1 = x ∧ t.ch[c].x2 = s.ch[c].x1 ∧ fx t.ch[c].y1 = y ∧
              t.ch[c].y2 = s.ch[c].y1) ∧
          (t.ch[c].filtEn = false →
            t.ch[c].x1 = s.ch[c].x1 ∧ t.ch[c].x2 = s.ch[c].x2 ∧ t.ch[c].y1 = s.ch[c].y1 ∧
              t.ch[c].y2 = s.ch[c].y2)

/-- R155, R158, R159, R169, R170: a frame mixes the enabled channels' OUT with their pan gains, rounds
once, advances the ramp once, multiplies both sides by the advanced RAMP_CUR, writes the pair to
OUTBUF[0], LAST_L and LAST_R, and counts the frame. -/
def Obligations.FrameMixesAndAppliesRamp : Prop :=
  ∀ s : State, s.cmdArg = 1 → 1 ≤ s.maxBlock.toNat →
    ∃ t, exec .render s = .next t ∧
      fx t.lastL =
        sat32 (sat32 ((∑ c : Fin 16, if t.ch[c].en then fx t.ch[c].out * t.ch[c].panLeft else 0)
          / 2 ^ 24) * fx t.rampCur / 2 ^ 24) ∧
      fx t.lastR =
        sat32 (sat32 ((∑ c : Fin 16, if t.ch[c].en then fx t.ch[c].out * t.ch[c].panRight else 0)
          / 2 ^ 24) * fx t.rampCur / 2 ^ 24) ∧
      (s.rampCnt.toNat = 0 → t.rampCnt = 0 ∧ t.rampCur = s.rampCur) ∧
      (s.rampCnt.toNat = 1 → t.rampCnt = 0 ∧ t.rampCur = s.rampTarget) ∧
      (2 ≤ s.rampCnt.toNat → t.rampCnt = s.rampCnt - 1 ∧ t.rampCur = s.rampCur + s.rampStep) ∧
      t.readWord 0x8000 = t.lastL ∧ t.readWord 0x8004 = t.lastR ∧ t.frameCount = s.frameCount + 1

/-- R110, R122, R126, R141, R50, R58, R62: through a RENDER of any length a disabled oscillator keeps PHASE
and OUT, a disabled channel keeps OUT, a disabled interpolator keeps OUT, and a channel that is
disabled or whose filter is bypassed keeps its history. -/
def Obligations.DisabledUnitsKeepTheirState : Prop :=
  ∀ s : State, s.cmdArg.toNat ≤ s.maxBlock.toNat →
    ∃ t, exec .render s = .next t ∧
      (∀ n : Fin 32, s.osc[n].en = false →
        t.osc[n].phase = s.osc[n].phase ∧ t.osc[n].out = s.osc[n].out) ∧
      (∀ c : Fin 16, s.ch[c].en = false → t.ch[c].out = s.ch[c].out) ∧
      (∀ c : Fin 16, (s.ch[c].en = false ∨ s.ch[c].filtEn = false) →
        t.ch[c].x1 = s.ch[c].x1 ∧ t.ch[c].x2 = s.ch[c].x2 ∧ t.ch[c].y1 = s.ch[c].y1 ∧
          t.ch[c].y2 = s.ch[c].y2) ∧
      (∀ k : Fin 16, s.ip[k].en = false → t.ip[k].out = s.ip[k].out)

/-- R154: the pan law, its clamp, its values at the centre and at the ends, and what the two gains add
up to. -/
def Obligations.PanLawGains : Prop :=
  ∀ (c : Channel) (p : Int), p = max (-0x1000000) (min 0x1000000 (fx c.pan)) →
    (c.panEn = false → c.panLeft = 0x1000000 ∧ c.panRight = 0x1000000) ∧
    (c.panEn = true →
      c.panLeft = (0x1000000 - p) / 2 ∧ c.panRight = (0x1000000 + p) / 2 ∧
      (p % 2 = 0 → c.panLeft + c.panRight = 0x1000000) ∧
      (p % 2 = 1 → c.panLeft + c.panRight = 0x1000000 - 1) ∧
      (fx c.pan = 0 → c.panLeft = 0x800000 ∧ c.panRight = 0x800000) ∧
      (fx c.pan ≤ -0x1000000 → c.panLeft = 0x1000000 ∧ c.panRight = 0) ∧
      (0x1000000 ≤ fx c.pan → c.panLeft = 0 ∧ c.panRight = 0x1000000))

/-! ### The arithmetic primitives (R13 to R16) -/

/-- R13 to R16: `asr` is the floor of the quotient, `sat32` clamps to FX and says when it does, `fxmul`
rounds the exact product down and clamps it, `truncDiv` rounds toward zero, and `mod32` is the residue
modulo 2^32, for negative numbers too. -/
def Obligations.ArithmeticPrimitives : Prop :=
  (∀ (v : Int) (s : Nat), asr v s = ⌊(v : ℚ) / 2 ^ s⌋) ∧
  (∀ v : Int,
    (-0x80000000 ≤ v → v ≤ 0x7FFFFFFF → sat32 v = v) ∧ (0x7FFFFFFF < v → sat32 v = 0x7FFFFFFF) ∧
    (v < -0x80000000 → sat32 v = -0x80000000) ∧ (saturates v = true ↔ sat32 v ≠ v)) ∧
  (∀ a b : Int, fxmul a b = sat32 ⌊(a * b : ℚ) / 2 ^ 24⌋) ∧
  (∀ a b : Int, 0 < b → truncDiv a b = Int.sign a * ((a.natAbs / b.natAbs : Nat) : Int)) ∧
  (∀ v : Int, ((mod32 v).toNat : Int) = v % 2 ^ 32)

/-! ### Invariants and rules of the whole machine -/

/-- R200, R109, R179: every step keeps the block's invariants. -/
def Obligations.StepKeepsInvariants : Prop :=
  ∀ s t : State, Inv s → step s = .next t → Inv t

/-- R195, R200, R158: the reset state has the block's invariants and the ramp's. -/
def Obligations.ResetStateHasInvariants : Prop := Inv State.reset ∧ RampInv State.reset

/-- R158: every step keeps the ramp from passing its target, so that adding RAMP_STEP never leaves the FX
range. -/
def Obligations.StepKeepsRampWithinTarget : Prop :=
  ∀ s t : State, RampInv s → step s = .next t → RampInv t

/-- R31, R65, R184: a command other than CLEAR_STATUS and RESET clears no flag, and with an error
recorded leaves the record. -/
def Obligations.FlagsAreSticky : Prop :=
  ∀ (i : Instr) (s t : State), exec i s = .next t → i ≠ .clearStatus → i ≠ .reset →
    (s.rangeFlag = true → t.rangeFlag = true) ∧ (s.satFlag = true → t.satFlag = true) ∧
    (s.err = true → t.err = true ∧ t.errCode = s.errCode ∧ t.errInfo = s.errInfo ∧ t.errArg = s.errArg)

/-- R63, R74, R197: no step writes OUTBUF but a hardware reset and the step that executes RENDER. -/
def Obligations.OnlyRenderWritesOutbuf : Prop :=
  ∀ s t : State, step s = .next t →
    (∀ rest, s.events ≠ .hardReset :: rest) →
    (∀ rest, s.events ≠ .write .word 0x020 0x03000000 :: rest) →
    (∀ a, 0x8000 ≤ a → t.readByte a = s.readByte a) ∧
    (∀ a, a % 4 = 0 → 0x8000 ≤ a → t.readWord a = s.readWord a)

/-- R33, R34, R35, R36, R37, R38, R39, R41, R43, R56, R200: which commands may write which registers. -/
def Obligations.RegistersHaveTheirWriters : Prop :=
  ∀ (i : Instr) (s t : State), exec i s = .next t →
    t.cmd = s.cmd ∧ SameSurroundings s t ∧
    (i ≠ .rampSetTarget → t.rampCnt.toNat ≤ s.rampCnt.toNat) ∧
    (i = .rampSetTarget → t.rampCnt = s.rampLen) ∧
    (i ≠ .reset →
      t.cmdArg = s.cmdArg ∧
      (i ≠ .setSampleRate → t.sampleRate = s.sampleRate) ∧
      (i ≠ .setMaxBlock → t.maxBlock = s.maxBlock) ∧
      (i ≠ .rampSetTime → t.rampTime = s.rampTime) ∧
      (i ≠ .rampSetTime → i ≠ .setSampleRate → t.rampLen = s.rampLen) ∧
      (i ≠ .rampSetTarget → i ≠ .rampSetValue →
        t.rampTarget = s.rampTarget ∧ t.rampStep = s.rampStep) ∧
      (i ≠ .render → t.frameCount = s.frameCount ∧ t.lastL = s.lastL ∧ t.lastR = s.lastR) ∧
      (∀ n : Fin 32, i ≠ .oscSetFreq (BitVec.ofNat 8 n) → t.osc[n].freq = s.osc[n].freq) ∧
      (∀ n : Fin 32, i ≠ .oscSetFreq (BitVec.ofNat 8 n) → i ≠ .setSampleRate →
        t.osc[n].pinc = s.osc[n].pinc) ∧
      (∀ c : Fin 16, i ≠ .render → i ≠ .chClearHist (BitVec.ofNat 8 c) →
        t.ch[c].x1 = s.ch[c].x1 ∧ t.ch[c].x2 = s.ch[c].x2 ∧ t.ch[c].y1 = s.ch[c].y1 ∧
          t.ch[c].y2 = s.ch[c].y2))

/-- R74: the block never reads OUTBUF: whatever OUTBUF holds, a command leaves the same registers. -/
def Obligations.CommandsNeverReadOutbuf : Prop :=
  ∀ (i : Instr) (s t t' : State) (m : Memory),
    exec i s = .next t → exec i { s with outbuf := m } = .next t' → SameRegisters t t'

/-- R191, R66: an access acts on the one instance whose window holds the address, at the offset from its
base, and leaves every other instance as it was. -/
def Obligations.InstancesAreIndependent : Prop :=
  ∀ (p q : Platform) (addr : Nat) (event : Nat → BusEvent),
    Platform.wf p → Platform.access p addr event = .next q →
    List.Forall₂
      (fun b b' : Placement =>
        b'.base = b.base ∧ (b.holds addr = false → b' = b) ∧
        (b.holds addr = true → b.block.perform (event (addr - b.base)) = .next b'.block)) p q

/-! ### STATUS.SAT in a frame -/

/-- R14, R31, R178, R156, R144 (with R123, R125, R127, R155, R159): after a frame STATUS.SAT is set exactly
where it was set before or some sat32 of the frame changed its argument: of an enabled channel's tap
sum, running filter, crossfade or gain, of a side's mix, or of a side's master gain. The clip, the pan
clamp and the interpolators never set it. -/
def Obligations.FrameRecordsSaturation : Prop :=
  ∀ s : State, Inv s → s.cmdArg = 1 →
    ∃ t, exec .render s = .next t ∧
      (t.satFlag = true ↔
        s.satFlag = true ∨
        (∃ c : Fin 16, s.ch[c].en = true ∧ ∃ taps x filt y mix : Int,
          taps = (fx t.ch[c].offset * 2 ^ 24 +
            ∑ j : Fin 4, if t.ch[c].tapSrc[j] = 0xFF then 0
              else fx t.ch[c].tapGain[j] * t.outAt t.ch[c].tapSrc[j]) / 2 ^ 24 ∧
          x = (if t.ch[c].clipEn = true ∧ fx t.ch[c].clip < sat32 taps then fx t.ch[c].clip
            else sat32 taps) ∧
          filt = (fx t.ch[c].b0 * x + fx t.ch[c].b1 * fx s.ch[c].x1 + fx t.ch[c].b2 * fx s.ch[c].x2 -
            fx t.ch[c].a1 * fx s.ch[c].y1 - fx t.ch[c].a2 * fx s.ch[c].y2) / 2 ^ 24 ∧
          y = (if t.ch[c].filtEn then sat32 filt else x) ∧
          mix = (fx t.ch[c].dry * x + fx t.ch[c].wet * y) / 2 ^ 24 ∧
          (outsideFx taps ∨ (t.ch[c].filtEn = true ∧ outsideFx filt) ∨ outsideFx mix ∨
            outsideFx (fx t.ch[c].gain * sat32 mix / 2 ^ 24))) ∨
        (∃ gain ∈ [Channel.panLeft, Channel.panRight], ∃ mix : Int,
          mix = (∑ c : Fin 16, if t.ch[c].en then fx t.ch[c].out * gain t.ch[c] else 0) / 2 ^ 24 ∧
          (outsideFx mix ∨ outsideFx (sat32 mix * fx t.rampCur / 2 ^ 24))))
end

