-- ==== Sys2Proof/Laws/Bits.lean ====
section
/-! SUPPORT. Laws of header fields, of bit fields and of the arithmetic primitives. -/

namespace Sys2Proof

/-- Bit by bit, a header is RSVD (0), SUB, UNIT, OPC from bit 0 up (R84). -/
theorem getLsbD_header (o u t : Byte) (i : Nat) :
    (header o u t).getLsbD i =
      if i < 8 then false
      else if i < 16 then t.getLsbD (i - 8)
      else if i < 24 then u.getLsbD (i - 16)
      else o.getLsbD (i - 24) := by
  change BitVec.getLsbD (w := 8 + 8 + 8 + 8) (o ++ u ++ t ++ (0 : Byte)) i = _
  rw [BitVec.getLsbD_append, BitVec.getLsbD_append, BitVec.getLsbD_append]
  by_cases h1 : i < 8
  · simp [h1]
  by_cases h2 : i < 16
  · simp [h1, h2, show i - 8 < 8 by omega]
  by_cases h3 : i < 24
  · rw [if_neg h1, if_neg (by omega), if_pos (by omega), if_neg h1, if_neg h2, if_pos h3,
      show i - 8 - 8 = i - 16 by omega]
  · rw [if_neg h1, if_neg (by omega), if_neg (by omega), if_neg h1, if_neg h2, if_neg h3,
      show i - 8 - 8 - 8 = i - 24 by omega]

@[simp] theorem headerOpc_header (o u t : Byte) : headerOpc (header o u t) = o := by
  ext i hi
  rw [headerOpc, BitVec.getElem_extractLsb', getLsbD_header, if_neg (by omega), if_neg (by omega),
    if_neg (by omega), Nat.add_sub_cancel_left, BitVec.getLsbD_eq_getElem]

@[simp] theorem headerUnit_header (o u t : Byte) : headerUnit (header o u t) = u := by
  ext i hi
  rw [headerUnit, BitVec.getElem_extractLsb', getLsbD_header, if_neg (by omega), if_neg (by omega),
    if_pos (by omega), Nat.add_sub_cancel_left, BitVec.getLsbD_eq_getElem]

@[simp] theorem headerSub_header (o u t : Byte) : headerSub (header o u t) = t := by
  ext i hi
  rw [headerSub, BitVec.getElem_extractLsb', getLsbD_header, if_neg (by omega), if_pos (by omega),
    Nat.add_sub_cancel_left, BitVec.getLsbD_eq_getElem]

@[simp] theorem headerRsvd_header (o u t : Byte) : headerRsvd (header o u t) = 0 := by
  ext i hi
  rw [headerRsvd, BitVec.getElem_extractLsb', getLsbD_header, if_pos (by omega)]
  simp

/-- A header with RSVD 0 is determined by its other three fields. -/
theorem header_of_fields (h : Word) (hr : headerRsvd h = 0) :
    header (headerOpc h) (headerUnit h) (headerSub h) = h := by
  have hz : ∀ j < 8, h.getLsbD j = false := fun j hj => by
    have := congrArg (fun b : Byte => b.getLsbD j) hr
    simpa [headerRsvd, BitVec.getLsbD_extractLsb', hj] using this
  apply BitVec.eq_of_getLsbD_eq
  intro i hi
  rw [getLsbD_header]
  split
  · next h8 => exact (hz i h8).symm
  · split
    · rw [headerSub, BitVec.getLsbD_extractLsb']; simp [show i - 8 < 8 by omega, show 8 + (i - 8) = i by omega]
    · split
      · rw [headerUnit, BitVec.getLsbD_extractLsb']; simp [show i - 16 < 8 by omega, show 16 + (i - 16) = i by omega]
      · rw [headerOpc, BitVec.getLsbD_extractLsb']; simp [show i - 24 < 8 by omega, show 24 + (i - 24) = i by omega]

namespace Machine

/-- Bit by bit, `setBits` takes the field's bits from the new value and the others from the old word. -/
theorem getLsbD_setBits {len : Nat} (w : Word) (lo : Nat) (v : BitVec len) (i : Nat) :
    (setBits w lo v).getLsbD i =
      if lo ≤ i ∧ i < lo + len ∧ i < 32 then v.getLsbD (i - lo) else w.getLsbD i := by
  simp only [setBits, BitVec.getLsbD_or, BitVec.getLsbD_and, BitVec.getLsbD_not,
    BitVec.getLsbD_shiftLeft, BitVec.getLsbD_setWidth, BitVec.getLsbD_allOnes]
  by_cases h32 : i < 32
  · by_cases hlo : i < lo
    · simp [h32, hlo, show ¬ lo ≤ i by omega]
    · by_cases hl : i < lo + len
      · simp [h32, hlo, hl, show lo ≤ i by omega, show i - lo < 32 by omega, show i - lo < len by omega]
      · simp [h32, hlo, hl, show ¬ i - lo < len by omega, BitVec.getLsbD_of_ge v (i - lo) (by omega)]
  · simp [h32, BitVec.getLsbD_of_ge w i (by omega)]

/-- A field reads back what `setBits` wrote. -/
theorem extractLsb'_setBits_same {len : Nat} (w : Word) (lo : Nat) (v : BitVec len) (h : lo + len ≤ 32) :
    (setBits w lo v).extractLsb' lo len = v := by
  ext i hi
  rw [BitVec.getElem_extractLsb', getLsbD_setBits, if_pos (by omega)]
  simp [BitVec.getLsbD_eq_getElem, hi]

/-- A field that does not meet the written one is unchanged. -/
theorem extractLsb'_setBits_disjoint {len : Nat} (w : Word) (lo : Nat) (v : BitVec len) (lo' len' : Nat)
    (h : lo' + len' ≤ lo ∨ lo + len ≤ lo') :
    (setBits w lo v).extractLsb' lo' len' = w.extractLsb' lo' len' := by
  ext i hi
  rw [BitVec.getElem_extractLsb', getLsbD_setBits, if_neg (by omega), BitVec.getElem_extractLsb']

/-- `asr` is the floor of the quotient by a power of two: the bounds of R13. -/
theorem asr_bounds (v : Int) (s : Nat) : asr v s * 2 ^ s ≤ v ∧ v < (asr v s + 1) * 2 ^ s := by
  have hp : (0 : Int) < ((2 ^ s : Nat) : Int) := by positivity
  have h1 := Int.ediv_mul_le v (ne_of_gt hp)
  have h2 := Int.lt_ediv_add_one_mul_self v hp
  push_cast at h1 h2
  exact ⟨by simpa [asr] using h1, by simpa [asr] using h2⟩

theorem sat32_range (v : Int) : -0x80000000 ≤ sat32 v ∧ sat32 v ≤ 0x7FFFFFFF := by
  unfold sat32; omega

/-- sat32 leaves its argument exactly where it does not saturate. -/
theorem sat32_eq_iff (v : Int) : sat32 v = v ↔ saturates v = false := by
  simp only [sat32, saturates, Bool.or_eq_false_iff, decide_eq_false_iff_not]; omega

/-- An FX word's integer is in FX range. -/
theorem fx_range (w : Word) : -0x80000000 ≤ fx w ∧ fx w ≤ 0x7FFFFFFF := by
  have h1 := BitVec.le_toInt w
  have h2 := BitVec.toInt_lt (x := w)
  simp only [fx]; norm_num at h1 h2; omega

/-- An integer in FX range reads back from its word (R17). -/
theorem fx_toFx {v : Int} (h : -0x80000000 ≤ v ∧ v ≤ 0x7FFFFFFF) : fx (toFx v) = v := by
  simp only [fx, toFx, BitVec.toInt_ofInt]
  exact Int.bmod_eq_of_le (by norm_num; omega) (by norm_num; omega)

@[simp] theorem fx_toFx_sat32 (v : Int) : fx (toFx (sat32 v)) = sat32 v := fx_toFx (sat32_range v)

end Machine
end Sys2Proof
end

