-- ==== Sys2Proof/Laws/State.lean ====
section
/-! SUPPORT. One lemma per field per named update of the state: which field it leaves, and the one it
sets. -/

namespace Sys2Proof.Machine

variable (s : State)

/-! ### modifyOsc -/

@[simp] theorem modifyOsc_status (n : Fin Config.nosc) (f : Osc → Osc) : (s.modifyOsc n f).status = s.status := rfl
@[simp] theorem modifyOsc_errInfo (n : Fin Config.nosc) (f : Osc → Osc) : (s.modifyOsc n f).errInfo = s.errInfo := rfl
@[simp] theorem modifyOsc_errArg (n : Fin Config.nosc) (f : Osc → Osc) : (s.modifyOsc n f).errArg = s.errArg := rfl
@[simp] theorem modifyOsc_cmdArg (n : Fin Config.nosc) (f : Osc → Osc) : (s.modifyOsc n f).cmdArg = s.cmdArg := rfl
@[simp] theorem modifyOsc_cmd (n : Fin Config.nosc) (f : Osc → Osc) : (s.modifyOsc n f).cmd = s.cmd := rfl
@[simp] theorem modifyOsc_sampleRate (n : Fin Config.nosc) (f : Osc → Osc) : (s.modifyOsc n f).sampleRate = s.sampleRate := rfl
@[simp] theorem modifyOsc_maxBlock (n : Fin Config.nosc) (f : Osc → Osc) : (s.modifyOsc n f).maxBlock = s.maxBlock := rfl
@[simp] theorem modifyOsc_frameCount (n : Fin Config.nosc) (f : Osc → Osc) : (s.modifyOsc n f).frameCount = s.frameCount := rfl
@[simp] theorem modifyOsc_rampTarget (n : Fin Config.nosc) (f : Osc → Osc) : (s.modifyOsc n f).rampTarget = s.rampTarget := rfl
@[simp] theorem modifyOsc_rampTime (n : Fin Config.nosc) (f : Osc → Osc) : (s.modifyOsc n f).rampTime = s.rampTime := rfl
@[simp] theorem modifyOsc_rampLen (n : Fin Config.nosc) (f : Osc → Osc) : (s.modifyOsc n f).rampLen = s.rampLen := rfl
@[simp] theorem modifyOsc_rampCur (n : Fin Config.nosc) (f : Osc → Osc) : (s.modifyOsc n f).rampCur = s.rampCur := rfl
@[simp] theorem modifyOsc_rampStep (n : Fin Config.nosc) (f : Osc → Osc) : (s.modifyOsc n f).rampStep = s.rampStep := rfl
@[simp] theorem modifyOsc_rampCnt (n : Fin Config.nosc) (f : Osc → Osc) : (s.modifyOsc n f).rampCnt = s.rampCnt := rfl
@[simp] theorem modifyOsc_lastL (n : Fin Config.nosc) (f : Osc → Osc) : (s.modifyOsc n f).lastL = s.lastL := rfl
@[simp] theorem modifyOsc_lastR (n : Fin Config.nosc) (f : Osc → Osc) : (s.modifyOsc n f).lastR = s.lastR := rfl
@[simp] theorem modifyOsc_ch (n : Fin Config.nosc) (f : Osc → Osc) : (s.modifyOsc n f).ch = s.ch := rfl
@[simp] theorem modifyOsc_ip (n : Fin Config.nosc) (f : Osc → Osc) : (s.modifyOsc n f).ip = s.ip := rfl
@[simp] theorem modifyOsc_outbuf (n : Fin Config.nosc) (f : Osc → Osc) : (s.modifyOsc n f).outbuf = s.outbuf := rfl
@[simp] theorem modifyOsc_powerOns (n : Fin Config.nosc) (f : Osc → Osc) : (s.modifyOsc n f).powerOns = s.powerOns := rfl
@[simp] theorem modifyOsc_events (n : Fin Config.nosc) (f : Osc → Osc) : (s.modifyOsc n f).events = s.events := rfl
@[simp] theorem modifyOsc_response (n : Fin Config.nosc) (f : Osc → Osc) : (s.modifyOsc n f).response = s.response := rfl

/-! ### modifyCh -/

@[simp] theorem modifyCh_status (c : Fin Config.nch) (f : Channel → Channel) : (s.modifyCh c f).status = s.status := rfl
@[simp] theorem modifyCh_errInfo (c : Fin Config.nch) (f : Channel → Channel) : (s.modifyCh c f).errInfo = s.errInfo := rfl
@[simp] theorem modifyCh_errArg (c : Fin Config.nch) (f : Channel → Channel) : (s.modifyCh c f).errArg = s.errArg := rfl
@[simp] theorem modifyCh_cmdArg (c : Fin Config.nch) (f : Channel → Channel) : (s.modifyCh c f).cmdArg = s.cmdArg := rfl
@[simp] theorem modifyCh_cmd (c : Fin Config.nch) (f : Channel → Channel) : (s.modifyCh c f).cmd = s.cmd := rfl
@[simp] theorem modifyCh_sampleRate (c : Fin Config.nch) (f : Channel → Channel) : (s.modifyCh c f).sampleRate = s.sampleRate := rfl
@[simp] theorem modifyCh_maxBlock (c : Fin Config.nch) (f : Channel → Channel) : (s.modifyCh c f).maxBlock = s.maxBlock := rfl
@[simp] theorem modifyCh_frameCount (c : Fin Config.nch) (f : Channel → Channel) : (s.modifyCh c f).frameCount = s.frameCount := rfl
@[simp] theorem modifyCh_rampTarget (c : Fin Config.nch) (f : Channel → Channel) : (s.modifyCh c f).rampTarget = s.rampTarget := rfl
@[simp] theorem modifyCh_rampTime (c : Fin Config.nch) (f : Channel → Channel) : (s.modifyCh c f).rampTime = s.rampTime := rfl
@[simp] theorem modifyCh_rampLen (c : Fin Config.nch) (f : Channel → Channel) : (s.modifyCh c f).rampLen = s.rampLen := rfl
@[simp] theorem modifyCh_rampCur (c : Fin Config.nch) (f : Channel → Channel) : (s.modifyCh c f).rampCur = s.rampCur := rfl
@[simp] theorem modifyCh_rampStep (c : Fin Config.nch) (f : Channel → Channel) : (s.modifyCh c f).rampStep = s.rampStep := rfl
@[simp] theorem modifyCh_rampCnt (c : Fin Config.nch) (f : Channel → Channel) : (s.modifyCh c f).rampCnt = s.rampCnt := rfl
@[simp] theorem modifyCh_lastL (c : Fin Config.nch) (f : Channel → Channel) : (s.modifyCh c f).lastL = s.lastL := rfl
@[simp] theorem modifyCh_lastR (c : Fin Config.nch) (f : Channel → Channel) : (s.modifyCh c f).lastR = s.lastR := rfl
@[simp] theorem modifyCh_osc (c : Fin Config.nch) (f : Channel → Channel) : (s.modifyCh c f).osc = s.osc := rfl
@[simp] theorem modifyCh_ip (c : Fin Config.nch) (f : Channel → Channel) : (s.modifyCh c f).ip = s.ip := rfl
@[simp] theorem modifyCh_outbuf (c : Fin Config.nch) (f : Channel → Channel) : (s.modifyCh c f).outbuf = s.outbuf := rfl
@[simp] theorem modifyCh_powerOns (c : Fin Config.nch) (f : Channel → Channel) : (s.modifyCh c f).powerOns = s.powerOns := rfl
@[simp] theorem modifyCh_events (c : Fin Config.nch) (f : Channel → Channel) : (s.modifyCh c f).events = s.events := rfl
@[simp] theorem modifyCh_response (c : Fin Config.nch) (f : Channel → Channel) : (s.modifyCh c f).response = s.response := rfl

/-! ### modifyIp -/

@[simp] theorem modifyIp_status (k : Fin Config.nip) (f : Interp → Interp) : (s.modifyIp k f).status = s.status := rfl
@[simp] theorem modifyIp_errInfo (k : Fin Config.nip) (f : Interp → Interp) : (s.modifyIp k f).errInfo = s.errInfo := rfl
@[simp] theorem modifyIp_errArg (k : Fin Config.nip) (f : Interp → Interp) : (s.modifyIp k f).errArg = s.errArg := rfl
@[simp] theorem modifyIp_cmdArg (k : Fin Config.nip) (f : Interp → Interp) : (s.modifyIp k f).cmdArg = s.cmdArg := rfl
@[simp] theorem modifyIp_cmd (k : Fin Config.nip) (f : Interp → Interp) : (s.modifyIp k f).cmd = s.cmd := rfl
@[simp] theorem modifyIp_sampleRate (k : Fin Config.nip) (f : Interp → Interp) : (s.modifyIp k f).sampleRate = s.sampleRate := rfl
@[simp] theorem modifyIp_maxBlock (k : Fin Config.nip) (f : Interp → Interp) : (s.modifyIp k f).maxBlock = s.maxBlock := rfl
@[simp] theorem modifyIp_frameCount (k : Fin Config.nip) (f : Interp → Interp) : (s.modifyIp k f).frameCount = s.frameCount := rfl
@[simp] theorem modifyIp_rampTarget (k : Fin Config.nip) (f : Interp → Interp) : (s.modifyIp k f).rampTarget = s.rampTarget := rfl
@[simp] theorem modifyIp_rampTime (k : Fin Config.nip) (f : Interp → Interp) : (s.modifyIp k f).rampTime = s.rampTime := rfl
@[simp] theorem modifyIp_rampLen (k : Fin Config.nip) (f : Interp → Interp) : (s.modifyIp k f).rampLen = s.rampLen := rfl
@[simp] theorem modifyIp_rampCur (k : Fin Config.nip) (f : Interp → Interp) : (s.modifyIp k f).rampCur = s.rampCur := rfl
@[simp] theorem modifyIp_rampStep (k : Fin Config.nip) (f : Interp → Interp) : (s.modifyIp k f).rampStep = s.rampStep := rfl
@[simp] theorem modifyIp_rampCnt (k : Fin Config.nip) (f : Interp → Interp) : (s.modifyIp k f).rampCnt = s.rampCnt := rfl
@[simp] theorem modifyIp_lastL (k : Fin Config.nip) (f : Interp → Interp) : (s.modifyIp k f).lastL = s.lastL := rfl
@[simp] theorem modifyIp_lastR (k : Fin Config.nip) (f : Interp → Interp) : (s.modifyIp k f).lastR = s.lastR := rfl
@[simp] theorem modifyIp_osc (k : Fin Config.nip) (f : Interp → Interp) : (s.modifyIp k f).osc = s.osc := rfl
@[simp] theorem modifyIp_ch (k : Fin Config.nip) (f : Interp → Interp) : (s.modifyIp k f).ch = s.ch := rfl
@[simp] theorem modifyIp_outbuf (k : Fin Config.nip) (f : Interp → Interp) : (s.modifyIp k f).outbuf = s.outbuf := rfl
@[simp] theorem modifyIp_powerOns (k : Fin Config.nip) (f : Interp → Interp) : (s.modifyIp k f).powerOns = s.powerOns := rfl
@[simp] theorem modifyIp_events (k : Fin Config.nip) (f : Interp → Interp) : (s.modifyIp k f).events = s.events := rfl
@[simp] theorem modifyIp_response (k : Fin Config.nip) (f : Interp → Interp) : (s.modifyIp k f).response = s.response := rfl

/-! ### noteRange -/

@[simp] theorem noteRange_errInfo (b : Bool) : (s.noteRange b).errInfo = s.errInfo := by unfold State.noteRange; split <;> rfl
@[simp] theorem noteRange_errArg (b : Bool) : (s.noteRange b).errArg = s.errArg := by unfold State.noteRange; split <;> rfl
@[simp] theorem noteRange_cmdArg (b : Bool) : (s.noteRange b).cmdArg = s.cmdArg := by unfold State.noteRange; split <;> rfl
@[simp] theorem noteRange_cmd (b : Bool) : (s.noteRange b).cmd = s.cmd := by unfold State.noteRange; split <;> rfl
@[simp] theorem noteRange_sampleRate (b : Bool) : (s.noteRange b).sampleRate = s.sampleRate := by unfold State.noteRange; split <;> rfl
@[simp] theorem noteRange_maxBlock (b : Bool) : (s.noteRange b).maxBlock = s.maxBlock := by unfold State.noteRange; split <;> rfl
@[simp] theorem noteRange_frameCount (b : Bool) : (s.noteRange b).frameCount = s.frameCount := by unfold State.noteRange; split <;> rfl
@[simp] theorem noteRange_rampTarget (b : Bool) : (s.noteRange b).rampTarget = s.rampTarget := by unfold State.noteRange; split <;> rfl
@[simp] theorem noteRange_rampTime (b : Bool) : (s.noteRange b).rampTime = s.rampTime := by unfold State.noteRange; split <;> rfl
@[simp] theorem noteRange_rampLen (b : Bool) : (s.noteRange b).rampLen = s.rampLen := by unfold State.noteRange; split <;> rfl
@[simp] theorem noteRange_rampCur (b : Bool) : (s.noteRange b).rampCur = s.rampCur := by unfold State.noteRange; split <;> rfl
@[simp] theorem noteRange_rampStep (b : Bool) : (s.noteRange b).rampStep = s.rampStep := by unfold State.noteRange; split <;> rfl
@[simp] theorem noteRange_rampCnt (b : Bool) : (s.noteRange b).rampCnt = s.rampCnt := by unfold State.noteRange; split <;> rfl
@[simp] theorem noteRange_lastL (b : Bool) : (s.noteRange b).lastL = s.lastL := by unfold State.noteRange; split <;> rfl
@[simp] theorem noteRange_lastR (b : Bool) : (s.noteRange b).lastR = s.lastR := by unfold State.noteRange; split <;> rfl
@[simp] theorem noteRange_osc (b : Bool) : (s.noteRange b).osc = s.osc := by unfold State.noteRange; split <;> rfl
@[simp] theorem noteRange_ch (b : Bool) : (s.noteRange b).ch = s.ch := by unfold State.noteRange; split <;> rfl
@[simp] theorem noteRange_ip (b : Bool) : (s.noteRange b).ip = s.ip := by unfold State.noteRange; split <;> rfl
@[simp] theorem noteRange_outbuf (b : Bool) : (s.noteRange b).outbuf = s.outbuf := by unfold State.noteRange; split <;> rfl
@[simp] theorem noteRange_powerOns (b : Bool) : (s.noteRange b).powerOns = s.powerOns := by unfold State.noteRange; split <;> rfl
@[simp] theorem noteRange_events (b : Bool) : (s.noteRange b).events = s.events := by unfold State.noteRange; split <;> rfl
@[simp] theorem noteRange_response (b : Bool) : (s.noteRange b).response = s.response := by unfold State.noteRange; split <;> rfl

/-! ### noteSat -/

@[simp] theorem noteSat_errInfo (b : Bool) : (s.noteSat b).errInfo = s.errInfo := by unfold State.noteSat; split <;> rfl
@[simp] theorem noteSat_errArg (b : Bool) : (s.noteSat b).errArg = s.errArg := by unfold State.noteSat; split <;> rfl
@[simp] theorem noteSat_cmdArg (b : Bool) : (s.noteSat b).cmdArg = s.cmdArg := by unfold State.noteSat; split <;> rfl
@[simp] theorem noteSat_cmd (b : Bool) : (s.noteSat b).cmd = s.cmd := by unfold State.noteSat; split <;> rfl
@[simp] theorem noteSat_sampleRate (b : Bool) : (s.noteSat b).sampleRate = s.sampleRate := by unfold State.noteSat; split <;> rfl
@[simp] theorem noteSat_maxBlock (b : Bool) : (s.noteSat b).maxBlock = s.maxBlock := by unfold State.noteSat; split <;> rfl
@[simp] theorem noteSat_frameCount (b : Bool) : (s.noteSat b).frameCount = s.frameCount := by unfold State.noteSat; split <;> rfl
@[simp] theorem noteSat_rampTarget (b : Bool) : (s.noteSat b).rampTarget = s.rampTarget := by unfold State.noteSat; split <;> rfl
@[simp] theorem noteSat_rampTime (b : Bool) : (s.noteSat b).rampTime = s.rampTime := by unfold State.noteSat; split <;> rfl
@[simp] theorem noteSat_rampLen (b : Bool) : (s.noteSat b).rampLen = s.rampLen := by unfold State.noteSat; split <;> rfl
@[simp] theorem noteSat_rampCur (b : Bool) : (s.noteSat b).rampCur = s.rampCur := by unfold State.noteSat; split <;> rfl
@[simp] theorem noteSat_rampStep (b : Bool) : (s.noteSat b).rampStep = s.rampStep := by unfold State.noteSat; split <;> rfl
@[simp] theorem noteSat_rampCnt (b : Bool) : (s.noteSat b).rampCnt = s.rampCnt := by unfold State.noteSat; split <;> rfl
@[simp] theorem noteSat_lastL (b : Bool) : (s.noteSat b).lastL = s.lastL := by unfold State.noteSat; split <;> rfl
@[simp] theorem noteSat_lastR (b : Bool) : (s.noteSat b).lastR = s.lastR := by unfold State.noteSat; split <;> rfl
@[simp] theorem noteSat_osc (b : Bool) : (s.noteSat b).osc = s.osc := by unfold State.noteSat; split <;> rfl
@[simp] theorem noteSat_ch (b : Bool) : (s.noteSat b).ch = s.ch := by unfold State.noteSat; split <;> rfl
@[simp] theorem noteSat_ip (b : Bool) : (s.noteSat b).ip = s.ip := by unfold State.noteSat; split <;> rfl
@[simp] theorem noteSat_outbuf (b : Bool) : (s.noteSat b).outbuf = s.outbuf := by unfold State.noteSat; split <;> rfl
@[simp] theorem noteSat_powerOns (b : Bool) : (s.noteSat b).powerOns = s.powerOns := by unfold State.noteSat; split <;> rfl
@[simp] theorem noteSat_events (b : Bool) : (s.noteSat b).events = s.events := by unfold State.noteSat; split <;> rfl
@[simp] theorem noteSat_response (b : Bool) : (s.noteSat b).response = s.response := by unfold State.noteSat; split <;> rfl

/-! ### writeFrame -/

@[simp] theorem writeFrame_status (i : Nat) (l r : Word) : (s.writeFrame i l r).status = s.status := by unfold State.writeFrame; split <;> rfl
@[simp] theorem writeFrame_errInfo (i : Nat) (l r : Word) : (s.writeFrame i l r).errInfo = s.errInfo := by unfold State.writeFrame; split <;> rfl
@[simp] theorem writeFrame_errArg (i : Nat) (l r : Word) : (s.writeFrame i l r).errArg = s.errArg := by unfold State.writeFrame; split <;> rfl
@[simp] theorem writeFrame_cmdArg (i : Nat) (l r : Word) : (s.writeFrame i l r).cmdArg = s.cmdArg := by unfold State.writeFrame; split <;> rfl
@[simp] theorem writeFrame_cmd (i : Nat) (l r : Word) : (s.writeFrame i l r).cmd = s.cmd := by unfold State.writeFrame; split <;> rfl
@[simp] theorem writeFrame_sampleRate (i : Nat) (l r : Word) : (s.writeFrame i l r).sampleRate = s.sampleRate := by unfold State.writeFrame; split <;> rfl
@[simp] theorem writeFrame_maxBlock (i : Nat) (l r : Word) : (s.writeFrame i l r).maxBlock = s.maxBlock := by unfold State.writeFrame; split <;> rfl
@[simp] theorem writeFrame_frameCount (i : Nat) (l r : Word) : (s.writeFrame i l r).frameCount = s.frameCount := by unfold State.writeFrame; split <;> rfl
@[simp] theorem writeFrame_rampTarget (i : Nat) (l r : Word) : (s.writeFrame i l r).rampTarget = s.rampTarget := by unfold State.writeFrame; split <;> rfl
@[simp] theorem writeFrame_rampTime (i : Nat) (l r : Word) : (s.writeFrame i l r).rampTime = s.rampTime := by unfold State.writeFrame; split <;> rfl
@[simp] theorem writeFrame_rampLen (i : Nat) (l r : Word) : (s.writeFrame i l r).rampLen = s.rampLen := by unfold State.writeFrame; split <;> rfl
@[simp] theorem writeFrame_rampCur (i : Nat) (l r : Word) : (s.writeFrame i l r).rampCur = s.rampCur := by unfold State.writeFrame; split <;> rfl
@[simp] theorem writeFrame_rampStep (i : Nat) (l r : Word) : (s.writeFrame i l r).rampStep = s.rampStep := by unfold State.writeFrame; split <;> rfl
@[simp] theorem writeFrame_rampCnt (i : Nat) (l r : Word) : (s.writeFrame i l r).rampCnt = s.rampCnt := by unfold State.writeFrame; split <;> rfl
@[simp] theorem writeFrame_lastL (i : Nat) (l r : Word) : (s.writeFrame i l r).lastL = s.lastL := by unfold State.writeFrame; split <;> rfl
@[simp] theorem writeFrame_lastR (i : Nat) (l r : Word) : (s.writeFrame i l r).lastR = s.lastR := by unfold State.writeFrame; split <;> rfl
@[simp] theorem writeFrame_osc (i : Nat) (l r : Word) : (s.writeFrame i l r).osc = s.osc := by unfold State.writeFrame; split <;> rfl
@[simp] theorem writeFrame_ch (i : Nat) (l r : Word) : (s.writeFrame i l r).ch = s.ch := by unfold State.writeFrame; split <;> rfl
@[simp] theorem writeFrame_ip (i : Nat) (l r : Word) : (s.writeFrame i l r).ip = s.ip := by unfold State.writeFrame; split <;> rfl
@[simp] theorem writeFrame_powerOns (i : Nat) (l r : Word) : (s.writeFrame i l r).powerOns = s.powerOns := by unfold State.writeFrame; split <;> rfl
@[simp] theorem writeFrame_events (i : Nat) (l r : Word) : (s.writeFrame i l r).events = s.events := by unfold State.writeFrame; split <;> rfl
@[simp] theorem writeFrame_response (i : Nat) (l r : Word) : (s.writeFrame i l r).response = s.response := by unfold State.writeFrame; split <;> rfl

/-! ### cmdError -/

@[simp] theorem cmdError_cmdArg (e : CmdErr) (h : Word) : (s.cmdError e h).cmdArg = s.cmdArg := by unfold State.cmdError; split <;> rfl
@[simp] theorem cmdError_cmd (e : CmdErr) (h : Word) : (s.cmdError e h).cmd = s.cmd := by unfold State.cmdError; split <;> rfl
@[simp] theorem cmdError_sampleRate (e : CmdErr) (h : Word) : (s.cmdError e h).sampleRate = s.sampleRate := by unfold State.cmdError; split <;> rfl
@[simp] theorem cmdError_maxBlock (e : CmdErr) (h : Word) : (s.cmdError e h).maxBlock = s.maxBlock := by unfold State.cmdError; split <;> rfl
@[simp] theorem cmdError_frameCount (e : CmdErr) (h : Word) : (s.cmdError e h).frameCount = s.frameCount := by unfold State.cmdError; split <;> rfl
@[simp] theorem cmdError_rampTarget (e : CmdErr) (h : Word) : (s.cmdError e h).rampTarget = s.rampTarget := by unfold State.cmdError; split <;> rfl
@[simp] theorem cmdError_rampTime (e : CmdErr) (h : Word) : (s.cmdError e h).rampTime = s.rampTime := by unfold State.cmdError; split <;> rfl
@[simp] theorem cmdError_rampLen (e : CmdErr) (h : Word) : (s.cmdError e h).rampLen = s.rampLen := by unfold State.cmdError; split <;> rfl
@[simp] theorem cmdError_rampCur (e : CmdErr) (h : Word) : (s.cmdError e h).rampCur = s.rampCur := by unfold State.cmdError; split <;> rfl
@[simp] theorem cmdError_rampStep (e : CmdErr) (h : Word) : (s.cmdError e h).rampStep = s.rampStep := by unfold State.cmdError; split <;> rfl
@[simp] theorem cmdError_rampCnt (e : CmdErr) (h : Word) : (s.cmdError e h).rampCnt = s.rampCnt := by unfold State.cmdError; split <;> rfl
@[simp] theorem cmdError_lastL (e : CmdErr) (h : Word) : (s.cmdError e h).lastL = s.lastL := by unfold State.cmdError; split <;> rfl
@[simp] theorem cmdError_lastR (e : CmdErr) (h : Word) : (s.cmdError e h).lastR = s.lastR := by unfold State.cmdError; split <;> rfl
@[simp] theorem cmdError_osc (e : CmdErr) (h : Word) : (s.cmdError e h).osc = s.osc := by unfold State.cmdError; split <;> rfl
@[simp] theorem cmdError_ch (e : CmdErr) (h : Word) : (s.cmdError e h).ch = s.ch := by unfold State.cmdError; split <;> rfl
@[simp] theorem cmdError_ip (e : CmdErr) (h : Word) : (s.cmdError e h).ip = s.ip := by unfold State.cmdError; split <;> rfl
@[simp] theorem cmdError_outbuf (e : CmdErr) (h : Word) : (s.cmdError e h).outbuf = s.outbuf := by unfold State.cmdError; split <;> rfl
@[simp] theorem cmdError_powerOns (e : CmdErr) (h : Word) : (s.cmdError e h).powerOns = s.powerOns := by unfold State.cmdError; split <;> rfl
@[simp] theorem cmdError_events (e : CmdErr) (h : Word) : (s.cmdError e h).events = s.events := by unfold State.cmdError; split <;> rfl
@[simp] theorem cmdError_response (e : CmdErr) (h : Word) : (s.cmdError e h).response = s.response := by unfold State.cmdError; split <;> rfl

/-! ### The unit that an update changes -/

@[simp] theorem modifyOsc_osc_same (n : Fin Config.nosc) (f : Osc → Osc) :
    (s.modifyOsc n f).osc[n] = f s.osc[n] := by simp [State.modifyOsc]

theorem modifyOsc_osc_other {n m : Fin Config.nosc} (f : Osc → Osc) (h : m ≠ n) :
    (s.modifyOsc n f).osc[m] = s.osc[m] := by
  simp only [State.modifyOsc, Fin.getElem_fin]
  exact Vector.getElem_set_ne _ _ (fun e => h (Fin.ext e.symm))

@[simp] theorem modifyCh_ch_same (c : Fin Config.nch) (f : Channel → Channel) :
    (s.modifyCh c f).ch[c] = f s.ch[c] := by simp [State.modifyCh]

theorem modifyCh_ch_other {c d : Fin Config.nch} (f : Channel → Channel) (h : d ≠ c) :
    (s.modifyCh c f).ch[d] = s.ch[d] := by
  simp only [State.modifyCh, Fin.getElem_fin]
  exact Vector.getElem_set_ne _ _ (fun e => h (Fin.ext e.symm))

@[simp] theorem modifyIp_ip_same (k : Fin Config.nip) (f : Interp → Interp) :
    (s.modifyIp k f).ip[k] = f s.ip[k] := by simp [State.modifyIp]

theorem modifyIp_ip_other {k j : Fin Config.nip} (f : Interp → Interp) (h : j ≠ k) :
    (s.modifyIp k f).ip[j] = s.ip[j] := by
  simp only [State.modifyIp, Fin.getElem_fin]
  exact Vector.getElem_set_ne _ _ (fun e => h (Fin.ext e.symm))

end Sys2Proof.Machine
end

