-- ==== Sys2Proof/Laws/Ops.lean ====
section
/-! SUPPORT. What the shared operations of Machine/Ops.lean and Machine/Flags.lean can do, said once for
each: OUTBUF's memory, the bus read, the flags, a failing command, the checks, and the loops over units. -/

namespace Sys2Proof.Machine

/-! ### OUTBUF's memory -/

@[simp] theorem byteAt_setByte_same (m : Memory) (a : Nat) (v : Byte) :
    Memory.byteAt (Memory.setByte m a v) a = some v := by
  induction m with
  | nil => simp [Memory.setByte, Memory.byteAt]
  | cons e m ih =>
    obtain ⟨k, b⟩ := e
    simp only [Memory.setByte]
    split
    · simp [Memory.byteAt]
    · split
      · simp [Memory.byteAt]
      · next h1 h2 => simp [Memory.byteAt, h2, ih]

theorem byteAt_setByte_other (m : Memory) {a a' : Nat} (v : Byte) (h : a' ≠ a) :
    Memory.byteAt (Memory.setByte m a v) a' = Memory.byteAt m a' := by
  induction m with
  | nil => simp [Memory.setByte, Memory.byteAt, h]
  | cons e m ih =>
    obtain ⟨k, b⟩ := e
    simp only [Memory.setByte]
    split
    · simp [Memory.byteAt, h]
    · split
      · next _ h2 => subst h2; simp [Memory.byteAt, h]
      · simp only [Memory.byteAt, ih]

/-- The offsets that a written byte's memory lists: the old ones and the new one. -/
theorem mem_setByte {m : Memory} {a : Nat} {v : Byte} {e : Host.Cell} (h : e ∈ Memory.setByte m a v) :
    e = (a, v) ∨ e ∈ m := by
  induction m with
  | nil => simpa [Memory.setByte] using h
  | cons x m ih =>
    obtain ⟨k, b⟩ := x
    simp only [Memory.setByte] at h
    split at h
    · simpa using h
    · split at h
      · rcases List.mem_cons.1 h with h | h
        · exact .inl h
        · exact .inr (List.mem_cons_of_mem _ h)
      · rcases List.mem_cons.1 h with h | h
        · exact .inr (h ▸ List.mem_cons_self)
        · exact (ih h).imp id (List.mem_cons_of_mem _)

theorem wf_setByte {m : Memory} (hm : Memory.wf m) (a : Nat) (v : Byte) :
    Memory.wf (Memory.setByte m a v) := by
  induction m with
  | nil => simp [Memory.setByte, Memory.wf]
  | cons x m ih =>
    obtain ⟨k, b⟩ := x
    obtain ⟨h1, h2⟩ := List.pairwise_cons.1 hm
    simp only [Memory.setByte]
    split
    · next hk =>
      refine List.pairwise_cons.2 ⟨fun e he => ?_, hm⟩
      rcases List.mem_cons.1 he with rfl | he
      · exact hk
      · exact lt_trans hk (h1 e he)
    · split
      · next _ hk => subst hk; exact List.pairwise_cons.2 ⟨h1, h2⟩
      · next hk hk' =>
        refine List.pairwise_cons.2 ⟨fun e he => ?_, ih h2⟩
        rcases mem_setByte he with rfl | he
        · show k < a
          omega
        · exact h1 e he

theorem wf_setBytes {m : Memory} (hm : Memory.wf m) (a : Nat) (bs : List Byte) :
    Memory.wf (Memory.setBytes m a bs) := by
  induction bs generalizing m a with
  | nil => exact hm
  | cons b bs ih => exact ih (wf_setByte hm a b) (a + 1)

/-- Writing bytes changes those bytes only. -/
theorem byteAt_setBytes_other (m : Memory) (a : Nat) (bs : List Byte) {a' : Nat}
    (h : a' < a ∨ a + bs.length ≤ a') :
    Memory.byteAt (Memory.setBytes m a bs) a' = Memory.byteAt m a' := by
  induction bs generalizing m a with
  | nil => rfl
  | cons b bs ih =>
    simp only [List.length_cons] at h
    rw [Memory.setBytes, ih _ _ (by omega), byteAt_setByte_other _ _ (by omega)]

theorem mem_setBytes {m : Memory} {a : Nat} {bs : List Byte} {e : Host.Cell}
    (h : e ∈ Memory.setBytes m a bs) : (a ≤ e.1 ∧ e.1 < a + bs.length) ∨ e ∈ m := by
  induction bs generalizing m a with
  | nil => exact .inr h
  | cons b bs ih =>
    rcases ih h with h | h
    · simp only [List.length_cons]; omega
    · rcases mem_setByte h with rfl | h
      · simp
      · exact .inr h

theorem wf_setWord {m : Memory} (hm : Memory.wf m) (a : Nat) (w : Word) :
    Memory.wf (Memory.setWord m a w) := wf_setBytes hm a _

theorem byteAt_setWord_other (m : Memory) (a : Nat) (w : Word) {a' : Nat} (h : a' < a ∨ a + 4 ≤ a') :
    Memory.byteAt (Memory.setWord m a w) a' = Memory.byteAt m a' :=
  byteAt_setBytes_other m a _ (by simpa [wordBytes] using h)

/-- The four bytes of a written word. -/
theorem byteAt_setWord (m : Memory) (a : Nat) (w : Word) :
    Memory.byteAt (Memory.setWord m a w) a = some (w.extractLsb' 0 8) ∧
    Memory.byteAt (Memory.setWord m a w) (a + 1) = some (w.extractLsb' 8 8) ∧
    Memory.byteAt (Memory.setWord m a w) (a + 2) = some (w.extractLsb' 16 8) ∧
    Memory.byteAt (Memory.setWord m a w) (a + 3) = some (w.extractLsb' 24 8) := by
  simp only [Memory.setWord, wordBytes, Memory.setBytes]
  refine ⟨?_, ?_, ?_, ?_⟩
  · rw [byteAt_setByte_other _ _ (by omega), byteAt_setByte_other _ _ (by omega),
      byteAt_setByte_other _ _ (by omega), byteAt_setByte_same]
  · rw [byteAt_setByte_other _ _ (by omega), byteAt_setByte_other _ _ (by omega), byteAt_setByte_same]
  · rw [show a + 1 + 1 = a + 2 by omega, byteAt_setByte_other _ _ (by omega), byteAt_setByte_same]
  · rw [show a + 1 + 1 + 1 = a + 3 by omega, byteAt_setByte_same]

/-- The four bytes of a word put together again are the word. -/
theorem append_extractLsb' (w : Word) :
    w.extractLsb' 24 8 ++ w.extractLsb' 16 8 ++ w.extractLsb' 8 8 ++ w.extractLsb' 0 8 = w := by
  apply BitVec.eq_of_getLsbD_eq
  intro i hi
  rw [BitVec.getLsbD_append, BitVec.getLsbD_append, BitVec.getLsbD_append]
  simp only [BitVec.getLsbD_extractLsb']
  by_cases h1 : i < 8
  · simp [h1]
  by_cases h2 : i < 16
  · rw [if_neg h1, if_pos (by omega)]
    simp [show i - 8 < 8 by omega, show 8 + (i - 8) = i by omega]
  by_cases h3 : i < 24
  · rw [if_neg h1, if_neg (by omega), if_pos (by omega)]
    simp [show i - 8 - 8 < 8 by omega, show 16 + (i - 8 - 8) = i by omega]
  · rw [if_neg h1, if_neg (by omega), if_neg (by omega)]
    simp [show i - 8 - 8 - 8 < 8 by omega, show 24 + (i - 8 - 8 - 8) = i by omega]

variable (s : State)

/-- `writeFrame` in full: the frame's two words, every other byte and register as before. -/
theorem writeFrame_outbuf_wf (i : Nat) (l r : Word) (h : Memory.wf s.outbuf) :
    Memory.wf (s.writeFrame i l r).outbuf := by
  unfold State.writeFrame
  split
  · exact wf_setWord (wf_setWord h _ _) _ _
  · exact h

theorem writeFrame_outbufByte_other (i : Nat) (l r : Word) {a : Nat}
    (h : a < outbufOffset i ∨ outbufOffset i + 8 ≤ a) :
    (s.writeFrame i l r).outbufByte a = s.outbufByte a := by
  unfold State.writeFrame
  split
  · simp only [State.outbufByte]
    rw [byteAt_setWord_other _ _ _ (by omega), byteAt_setWord_other _ _ _ (by omega)]
  · rfl

theorem writeFrame_outbufWord_left {i : Nat} (hi : i < Config.outbufCap) (l r : Word) :
    (s.writeFrame i l r).outbufWord (outbufOffset i) = l := by
  obtain ⟨h0, h1, h2, h3⟩ := byteAt_setWord s.outbuf (outbufOffset i) l
  simp only [State.writeFrame, if_pos hi, State.outbufWord, State.outbufByte]
  have o := fun k (hk : k < 4) => byteAt_setWord_other (Memory.setWord s.outbuf (outbufOffset i) l)
    (outbufOffset i + 4) r (a' := outbufOffset i + k) (.inl (by omega))
  have o0 := byteAt_setWord_other (Memory.setWord s.outbuf (outbufOffset i) l) (outbufOffset i + 4) r
    (a' := outbufOffset i) (.inl (by omega))
  rw [o 3 (by omega), o 2 (by omega), o 1 (by omega), o0, h0, h1, h2, h3]
  exact append_extractLsb' l

theorem writeFrame_outbufWord_right {i : Nat} (hi : i < Config.outbufCap) (l r : Word) :
    (s.writeFrame i l r).outbufWord (outbufOffset i + 4) = r := by
  obtain ⟨h0, h1, h2, h3⟩ :=
    byteAt_setWord (Memory.setWord s.outbuf (outbufOffset i) l) (outbufOffset i + 4) r
  simp only [State.writeFrame, if_pos hi, State.outbufWord, State.outbufByte]
  rw [h0, h1, h2, h3]
  exact append_extractLsb' r

/-- The offsets that a frame's write lists are the old ones and the frame's own, inside OUTBUF. -/
theorem mem_writeFrame_outbuf {i : Nat} {l r : Word} {e : Host.Cell}
    (h : e ∈ (s.writeFrame i l r).outbuf) :
    (0x8000 ≤ e.1 ∧ e.1 < 0x8000 + 8 * Config.outbufCap) ∨ e ∈ s.outbuf := by
  unfold State.writeFrame at h
  split at h
  · next hi =>
    simp only [Memory.setWord] at h
    rcases mem_setBytes h with h | h
    · left
      simp only [wordBytes, List.length_cons, List.length_nil, outbufOffset] at h
      simp only [Config.outbufCap] at hi ⊢
      omega
    · rcases mem_setBytes h with h | h
      · left
        simp only [wordBytes, List.length_cons, List.length_nil, outbufOffset] at h
        simp only [Config.outbufCap] at hi ⊢
        omega
      · exact .inr h
  · exact .inr h

/-! ### The bus read -/

/-- A global register. -/
theorem readWord_global {a : Nat} (h : a < 0x1000) : s.readWord a = s.readGlobal a := by
  simp [State.readWord, h]

/-- A register of oscillator `n`. -/
theorem readWord_osc (n : Fin Config.nosc) {k : Nat} (h : k < 0x20) :
    s.readWord (0x1000 + 0x20 * n + k) = s.osc[n].read k := by
  have hn : n.val < 32 := n.isLt
  have hd : (0x1000 + 0x20 * n.val + k - 0x1000) / 0x20 = n.val := by omega
  have hm : (0x1000 + 0x20 * n.val + k - 0x1000) % 0x20 = k := by omega
  unfold State.readWord
  rw [if_neg (by omega), if_pos (by omega)]
  simp only [hd, hm]
  rw [dif_pos n.isLt]
  rfl

/-- A register of channel `c`. -/
theorem readWord_ch (c : Fin Config.nch) {k : Nat} (h : k < 0x80) :
    s.readWord (0x4000 + 0x80 * c + k) = s.ch[c].read k := by
  have hn : c.val < 16 := c.isLt
  have hd : (0x4000 + 0x80 * c.val + k - 0x4000) / 0x80 = c.val := by omega
  have hm : (0x4000 + 0x80 * c.val + k - 0x4000) % 0x80 = k := by omega
  unfold State.readWord
  rw [if_neg (by omega), if_neg (by omega), if_pos (by omega)]
  simp only [hd, hm]
  rw [dif_pos c.isLt]
  rfl

/-- A register of interpolator `i`. -/
theorem readWord_ip (i : Fin Config.nip) {k : Nat} (h : k < 0x20) :
    s.readWord (0x6000 + 0x20 * i + k) = s.ip[i].read k := by
  have hn : i.val < 16 := i.isLt
  have hd : (0x6000 + 0x20 * i.val + k - 0x6000) / 0x20 = i.val := by omega
  have hm : (0x6000 + 0x20 * i.val + k - 0x6000) % 0x20 = k := by omega
  unfold State.readWord
  rw [if_neg (by omega), if_neg (by omega), if_neg (by omega), if_pos (by omega)]
  simp only [hd, hm]
  rw [dif_pos i.isLt]
  rfl

/-- A word of OUTBUF. -/
theorem readWord_outbuf {a : Nat} (h : 0x8000 ≤ a) (h' : a < 0xA000) : s.readWord a = s.outbufWord a := by
  unfold State.readWord
  rw [if_neg (by omega), if_neg (by omega), if_neg (by omega), if_neg (by omega), if_pos (by simp only [Config.outbufCap]; omega)]

/-- Above OUTBUF everything reads 0. -/
theorem readWord_above {a : Nat} (h : 0xA000 ≤ a) : s.readWord a = 0 := by
  unfold State.readWord
  rw [if_neg (by omega), if_neg (by omega), if_neg (by omega), if_neg (by omega),
    if_neg (by simp only [Config.outbufCap]; omega)]

/-- Every offset of the window is a global's, an oscillator's, a channel's, an interpolator's, OUTBUF's,
or reads 0 in every state. -/
theorem readWord_cases (a : Nat) :
    a < 0x1000 ∨ (∃ (n : Fin Config.nosc) (k : Nat), k < 0x20 ∧ a = 0x1000 + 0x20 * n + k) ∨
      (∃ (c : Fin Config.nch) (k : Nat), k < 0x80 ∧ a = 0x4000 + 0x80 * c + k) ∨
      (∃ (i : Fin Config.nip) (k : Nat), k < 0x20 ∧ a = 0x6000 + 0x20 * i + k) ∨
      (0x8000 ≤ a ∧ a < 0xA000) ∨ ∀ s : State, s.readWord a = 0 := by
  by_cases h1 : a < 0x1000
  · exact .inl h1
  by_cases h2 : a < 0x4000
  · by_cases hn : (a - 0x1000) / 0x20 < Config.nosc
    · exact .inr (.inl ⟨⟨_, hn⟩, (a - 0x1000) % 0x20, by omega, by simp only; omega⟩)
    · refine .inr (.inr (.inr (.inr (.inr fun s => ?_))))
      unfold State.readWord
      rw [if_neg h1, if_pos h2, dif_neg hn]
  by_cases h3 : a < 0x6000
  · by_cases hn : (a - 0x4000) / 0x80 < Config.nch
    · exact .inr (.inr (.inl ⟨⟨_, hn⟩, (a - 0x4000) % 0x80, by omega, by simp only; omega⟩))
    · refine .inr (.inr (.inr (.inr (.inr fun s => ?_))))
      unfold State.readWord
      rw [if_neg h1, if_neg h2, if_pos h3, dif_neg hn]
  by_cases h4 : a < 0x8000
  · by_cases hn : (a - 0x6000) / 0x20 < Config.nip
    · exact .inr (.inr (.inr (.inl ⟨⟨_, hn⟩, (a - 0x6000) % 0x20, by omega, by simp only; omega⟩)))
    · refine .inr (.inr (.inr (.inr (.inr fun s => ?_))))
      unfold State.readWord
      rw [if_neg h1, if_neg h2, if_neg h3, if_pos h4, dif_neg hn]
  by_cases h5 : a < 0xA000
  · exact .inr (.inr (.inr (.inr (.inl ⟨by omega, h5⟩))))
  · exact .inr (.inr (.inr (.inr (.inr fun s => readWord_above s (by omega)))))

/-- Two states with the same registers and OUTBUF read the same at every offset. -/
theorem readWord_congr {t : State} (hg : ∀ a < 0x1000, t.readGlobal a = s.readGlobal a)
    (ho : t.osc = s.osc) (hc : t.ch = s.ch) (hi : t.ip = s.ip) (hb : t.outbuf = s.outbuf)
    (hp : t.powerOns = s.powerOns) (a : Nat) : t.readWord a = s.readWord a := by
  unfold State.readWord
  split
  · next h => exact hg a h
  · simp only [ho, hc, hi, State.outbufWord, State.outbufByte, hb, hp]

/-! ### The flags and the failing command -/

/-- `noteRange` in full: bit 8 of STATUS where the condition holds. -/
theorem noteRange_eq (b : Bool) :
    s.noteRange b = { s with status := if b then s.status ||| 0x100 else s.status } := by
  unfold State.noteRange
  split
  · congr 1
    apply BitVec.eq_of_getLsbD_eq
    intro i hi
    rw [getLsbD_setBits, BitVec.getLsbD_or]
    by_cases h : i = 8
    · subst h; simp [bit]
    · rw [if_neg (by omega)]
      have : (0x100 : Word).getLsbD i = false := by
        interval_cases i <;> first | rfl | exact absurd rfl h
      rw [this, Bool.or_false]
  · rfl

/-- `noteSat` in full: bit 9 of STATUS where the condition holds. -/
theorem noteSat_eq (b : Bool) :
    s.noteSat b = { s with status := if b then s.status ||| 0x200 else s.status } := by
  unfold State.noteSat
  split
  · congr 1
    apply BitVec.eq_of_getLsbD_eq
    intro i hi
    rw [getLsbD_setBits, BitVec.getLsbD_or]
    by_cases h : i = 9
    · subst h; simp [bit]
    · rw [if_neg (by omega)]
      have : (0x200 : Word).getLsbD i = false := by
        interval_cases i <;> first | rfl | exact absurd rfl h
      rw [this, Bool.or_false]
  · rfl

/-- A failing command in full: nothing where an error stands, else STATUS, ERRINFO and ERRARG. -/
theorem cmdError_cases (e : CmdErr) (h : Word) :
    (s.err = true ∧ s.cmdError e h = s) ∨
    (s.err = false ∧
      s.cmdError e h = { s with status := failedStatus s.status e, errInfo := h, errArg := s.cmdArg }) := by
  unfold State.cmdError
  cases hs : s.err <;> simp

/-! ### The checks -/

/-- UNIT in range: the unit is reached. -/
theorem withUnit_ok {limit : Nat} (h : Word) {unit : Byte} (k : Fin limit → Result)
    (hu : unit.toNat < limit) : withUnit limit h unit s k = k ⟨unit.toNat, hu⟩ := by
  simp [withUnit, hu]

/-- UNIT out of range: ERR_UNIT. -/
theorem withUnit_bad {limit : Nat} (h : Word) {unit : Byte} (k : Fin limit → Result)
    (hu : ¬unit.toNat < limit) : withUnit limit h unit s k = .next (s.cmdError .unit h) := by
  simp [withUnit, hu]

/-- SUB in range: the sub-index is reached. -/
theorem withSub_ok {nsub : Nat} (h : Word) {sub : Byte} (k : Fin nsub → Result)
    (hs : sub.toNat < nsub) : withSub nsub h sub s k = k ⟨sub.toNat, hs⟩ := by
  simp [withSub, hs]

/-- SUB out of range: ERR_SUB. -/
theorem withSub_bad {nsub : Nat} (h : Word) {sub : Byte} (k : Fin nsub → Result)
    (hs : ¬sub.toNat < nsub) : withSub nsub h sub s k = .next (s.cmdError .sub h) := by
  simp [withSub, hs]

/-- The check on ARG always answers a next state: the command's, or the failed one. -/
theorem withArg_cases {legal : Bool} {h : Word} {done t : State} (ht : withArg legal h s done = .next t) :
    (legal = true ∧ t = done) ∨ (legal = false ∧ t = s.cmdError .arg h) := by
  cases legal <;> simp_all [withArg, eq_comm]

/-- What a command with a unit can answer: its own outcome on a unit, or ERR_UNIT. -/
theorem withUnit_cases {limit : Nat} {h : Word} {unit : Byte} {k : Fin limit → Result} {t : State}
    (ht : withUnit limit h unit s k = .next t) :
    (∃ hu : unit.toNat < limit, k ⟨unit.toNat, hu⟩ = .next t) ∨
      (¬unit.toNat < limit ∧ t = s.cmdError .unit h) := by
  by_cases hu : unit.toNat < limit
  · exact .inl ⟨hu, by rwa [withUnit_ok s h k hu] at ht⟩
  · rw [withUnit_bad s h k hu] at ht
    exact .inr ⟨hu, (Host.Outcome.next.inj ht).symm⟩

/-- What a command with a sub-index can answer: its own outcome, or ERR_SUB. -/
theorem withSub_cases {nsub : Nat} {h : Word} {sub : Byte} {k : Fin nsub → Result} {t : State}
    (ht : withSub nsub h sub s k = .next t) :
    (∃ hs : sub.toNat < nsub, k ⟨sub.toNat, hs⟩ = .next t) ∨
      (¬sub.toNat < nsub ∧ t = s.cmdError .sub h) := by
  by_cases hs : sub.toNat < nsub
  · exact .inl ⟨hs, by rwa [withSub_ok s h k hs] at ht⟩
  · rw [withSub_bad s h k hs] at ht
    exact .inr ⟨hs, (Host.Outcome.next.inj ht).symm⟩

/-! ### The loops over units -/

/-- What every unit's turn keeps, the loop keeps. -/
theorem forUnits_keeps {n : Nat} {f : Fin n → State → State} (P : State → Prop)
    (hf : ∀ u s, P s → P (f u s)) {s : State} (hs : P s) : P (forUnits n f s) := by
  unfold forUnits
  generalize List.finRange n = us
  induction us generalizing s with
  | nil => exact hs
  | cons u us ih => exact ih (hf u s hs)

/-- What every turn leaves alone, the loop leaves alone. -/
theorem forUnits_preserves {n : Nat} {f : Fin n → State → State} {α : Type} (g : State → α)
    (hf : ∀ u s, g (f u s) = g s) (s : State) : g (forUnits n f s) = g s :=
  forUnits_keeps (fun t => g t = g s) (fun u t ht => (hf u t).trans ht) rfl

/-- What every turn but that of unit `m` leaves alone is what turn `m` makes of it, where turn `m` does the
same from every state that agrees on it. -/
theorem forUnits_once {n : Nat} {f : Fin n → State → State} {α : Type} (g : State → α) (m : Fin n)
    (hf : ∀ u s, u ≠ m → g (f u s) = g s) (F : α → α) (hm : ∀ s, g (f m s) = F (g s)) (s : State) :
    g (forUnits n f s) = F (g s) := by
  unfold forUnits
  have hmem : m ∈ List.finRange n := List.mem_finRange m
  have hnd : (List.finRange n).Nodup := List.nodup_finRange n
  revert hmem hnd
  generalize List.finRange n = us
  induction us generalizing s with
  | nil => intro hmem; simp at hmem
  | cons u us ih =>
    intro hmem hnd
    obtain ⟨hu, hnd⟩ := List.nodup_cons.1 hnd
    simp only [List.foldl_cons]
    rcases List.mem_cons.1 hmem with rfl | hmem
    · have keep : ∀ (l : List (Fin n)) (t : State), m ∉ l → g (l.foldl (fun s u => f u s) t) = g t := by
        intro l
        induction l with
        | nil => intro t _; rfl
        | cons v l ihl =>
          intro t hv
          simp only [List.mem_cons, not_or] at hv
          simp only [List.foldl_cons]
          rw [ihl _ hv.2, hf v t (fun e => hv.1 e.symm)]
      rw [keep us _ hu, hm]
    · rw [ih _ hmem hnd, hf u s (fun e => hu (e ▸ hmem))]

end Sys2Proof.Machine
end

