-- ==== Sys2Proof/Laws/Frame.lean ====
section
/-! SUPPORT. How a frame (`ChangesOnly`) is shown: for a change of globals, for a change of one unit, and
for two changes one after the other. -/

namespace Sys2Proof.Machine

theorem sameSurroundings_refl (s : State) : SameSurroundings s s := ⟨rfl, rfl, rfl⟩

theorem sameSurroundings_trans {s t u : State} (h : SameSurroundings s t) (h' : SameSurroundings t u) :
    SameSurroundings s u := ⟨h'.1.trans h.1, h'.2.1.trans h.2.1, h'.2.2.trans h.2.2⟩

/-- The bytes of the window are those of its words, so a frame on words is a frame on bytes. -/
theorem changesOnly_of_words {s t : State} {ws : List (Nat × Word)}
    (hw : ∀ p ∈ ws, t.readWord p.1 = p.2)
    (hf : ∀ a, a % 4 = 0 → (∀ p ∈ ws, p.1 ≠ a) → t.readWord a = s.readWord a)
    (hs : SameSurroundings s t) : ChangesOnly s t ws :=
  ⟨hw, hf, fun a ha => by rw [State.readByte, State.readByte, hf _ (by omega) ha], hs⟩

/-- A change that reads no word differently changes nothing. -/
theorem changesOnly_refl (s : State) : ChangesOnly s s [] :=
  changesOnly_of_words (by simp) (fun _ _ _ => rfl) (sameSurroundings_refl s)

/-- Two changes one after the other, where the second leaves what the first wrote. -/
theorem changesOnly_trans {s t u : State} {ws vs : List (Nat × Word)} (h : ChangesOnly s t ws)
    (h' : ChangesOnly t u vs) (hd : ∀ p ∈ ws, p.1 % 4 = 0 ∧ ∀ q ∈ vs, q.1 ≠ p.1) :
    ChangesOnly s u (ws ++ vs) := by
  refine changesOnly_of_words (fun p hp => ?_) (fun a ha hp => ?_) (sameSurroundings_trans h.2.2.2 h'.2.2.2)
  · rcases List.mem_append.1 hp with hp | hp
    · rw [h'.2.1 _ (hd p hp).1 (hd p hp).2]; exact h.1 p hp
    · exact h'.1 p hp
  · rw [h'.2.1 a ha fun q hq => hp q (List.mem_append_right _ hq),
      h.2.1 a ha fun q hq => hp q (List.mem_append_left _ hq)]

/-- A change of global registers: what it writes, and that every other global reads as before. -/
theorem changesOnly_globals {s t : State} {ws : List (Nat × Word)} (ho : t.osc = s.osc)
    (hc : t.ch = s.ch) (hi : t.ip = s.ip) (hb : t.outbuf = s.outbuf) (hs : SameSurroundings s t)
    (hw : ∀ p ∈ ws, p.1 < 0x1000 ∧ t.readGlobal p.1 = p.2)
    (hf : ∀ a < 0x1000, (∀ p ∈ ws, p.1 ≠ a) → t.readGlobal a = s.readGlobal a) :
    ChangesOnly s t ws := by
  refine changesOnly_of_words (fun p hp => ?_) (fun a ha hp => ?_) hs
  · rw [readWord_global t (hw p hp).1]; exact (hw p hp).2
  · by_cases hg : a < 0x1000
    · rw [readWord_global t hg, readWord_global s hg]; exact hf a hg hp
    · unfold State.readWord
      rw [if_neg hg, if_neg hg]
      simp only [ho, hc, hi, State.outbufWord, State.outbufByte, hb, hs.1]

/-- A change of one oscillator. -/
theorem changesOnly_modifyOsc (s : State) (n : Fin Config.nosc) (f : Osc → Osc) (ks : List (Nat × Word))
    (hk : ∀ p ∈ ks, p.1 < 0x20 ∧ (f s.osc[n]).read p.1 = p.2)
    (hf : ∀ k < 0x20, k % 4 = 0 → (∀ p ∈ ks, p.1 ≠ k) → (f s.osc[n]).read k = s.osc[n].read k) :
    ChangesOnly s (s.modifyOsc n f) (ks.map fun p => (oscOffset n p.1, p.2)) := by
  refine changesOnly_of_words (fun p hp => ?_) (fun a ha hp => ?_) ⟨rfl, rfl, rfl⟩
  · obtain ⟨q, hq, rfl⟩ := List.mem_map.1 hp
    rw [oscOffset, readWord_osc _ n (hk q hq).1, modifyOsc_osc_same]
    exact (hk q hq).2
  · rcases readWord_cases a with h | ⟨m, k, h, rfl⟩ | ⟨c, k, h, rfl⟩ | ⟨i, k, h, rfl⟩ | h | h
    · rw [readWord_global _ h, readWord_global _ h]; rfl
    · rw [readWord_osc _ m h, readWord_osc _ m h]
      by_cases hm : m = n
      · subst hm
        rw [modifyOsc_osc_same]
        exact hf k h (by omega) fun p hp' e =>
          hp _ (List.mem_map_of_mem hp') (by simp only [oscOffset, e])
      · rw [modifyOsc_osc_other _ _ hm]
    · rw [readWord_ch _ c h, readWord_ch _ c h]; rfl
    · rw [readWord_ip _ i h, readWord_ip _ i h]; rfl
    · rw [readWord_outbuf _ h.1 h.2, readWord_outbuf _ h.1 h.2]; rfl
    · rw [h, h]

/-- A change of one channel. -/
theorem changesOnly_modifyCh (s : State) (c : Fin Config.nch) (f : Channel → Channel)
    (ks : List (Nat × Word)) (hk : ∀ p ∈ ks, p.1 < 0x80 ∧ (f s.ch[c]).read p.1 = p.2)
    (hf : ∀ k < 0x80, k % 4 = 0 → (∀ p ∈ ks, p.1 ≠ k) → (f s.ch[c]).read k = s.ch[c].read k) :
    ChangesOnly s (s.modifyCh c f) (ks.map fun p => (chOffset c p.1, p.2)) := by
  refine changesOnly_of_words (fun p hp => ?_) (fun a ha hp => ?_) ⟨rfl, rfl, rfl⟩
  · obtain ⟨q, hq, rfl⟩ := List.mem_map.1 hp
    rw [chOffset, readWord_ch _ c (hk q hq).1, modifyCh_ch_same]
    exact (hk q hq).2
  · rcases readWord_cases a with h | ⟨m, k, h, rfl⟩ | ⟨m, k, h, rfl⟩ | ⟨i, k, h, rfl⟩ | h | h
    · rw [readWord_global _ h, readWord_global _ h]; rfl
    · rw [readWord_osc _ m h, readWord_osc _ m h]; rfl
    · rw [readWord_ch _ m h, readWord_ch _ m h]
      by_cases hm : m = c
      · subst hm
        rw [modifyCh_ch_same]
        exact hf k h (by omega) fun p hp' e =>
          hp _ (List.mem_map_of_mem hp') (by simp only [chOffset, e])
      · rw [modifyCh_ch_other _ _ hm]
    · rw [readWord_ip _ i h, readWord_ip _ i h]; rfl
    · rw [readWord_outbuf _ h.1 h.2, readWord_outbuf _ h.1 h.2]; rfl
    · rw [h, h]

/-- A change of one interpolator. -/
theorem changesOnly_modifyIp (s : State) (i : Fin Config.nip) (f : Interp → Interp)
    (ks : List (Nat × Word)) (hk : ∀ p ∈ ks, p.1 < 0x20 ∧ (f s.ip[i]).read p.1 = p.2)
    (hf : ∀ k < 0x20, k % 4 = 0 → (∀ p ∈ ks, p.1 ≠ k) → (f s.ip[i]).read k = s.ip[i].read k) :
    ChangesOnly s (s.modifyIp i f) (ks.map fun p => (ipOffset i p.1, p.2)) := by
  refine changesOnly_of_words (fun p hp => ?_) (fun a ha hp => ?_) ⟨rfl, rfl, rfl⟩
  · obtain ⟨q, hq, rfl⟩ := List.mem_map.1 hp
    rw [ipOffset, readWord_ip _ i (hk q hq).1, modifyIp_ip_same]
    exact (hk q hq).2
  · rcases readWord_cases a with h | ⟨m, k, h, rfl⟩ | ⟨m, k, h, rfl⟩ | ⟨m, k, h, rfl⟩ | h | h
    · rw [readWord_global _ h, readWord_global _ h]; rfl
    · rw [readWord_osc _ m h, readWord_osc _ m h]; rfl
    · rw [readWord_ch _ m h, readWord_ch _ m h]; rfl
    · rw [readWord_ip _ m h, readWord_ip _ m h]
      by_cases hm : m = i
      · subst hm
        rw [modifyIp_ip_same]
        exact hf k h (by omega) fun p hp' e =>
          hp _ (List.mem_map_of_mem hp') (by simp only [ipOffset, e])
      · rw [modifyIp_ip_other _ _ hm]
    · rw [readWord_outbuf _ h.1 h.2, readWord_outbuf _ h.1 h.2]; rfl
    · rw [h, h]

/-- Noting a range condition changes STATUS alone. -/
theorem changesOnly_noteRange (s : State) (b : Bool) :
    ChangesOnly s (s.noteRange b) [(0x010, flagged s.status 0x100 b)] := by
  rw [noteRange_eq]
  refine changesOnly_globals rfl rfl rfl rfl ⟨rfl, rfl, rfl⟩ ?_ ?_
  · simp [State.readGlobal, flagged]
  · intro a _ h
    have h := h _ List.mem_cons_self
    unfold State.readGlobal
    split <;> first | rfl | exact absurd rfl h

/-- Noting a saturation changes STATUS alone. -/
theorem changesOnly_noteSat (s : State) (b : Bool) :
    ChangesOnly s (s.noteSat b) [(0x010, flagged s.status 0x200 b)] := by
  rw [noteSat_eq]
  refine changesOnly_globals rfl rfl rfl rfl ⟨rfl, rfl, rfl⟩ ?_ ?_
  · simp [State.readGlobal, flagged]
  · intro a _ h
    have h := h _ List.mem_cons_self
    unfold State.readGlobal
    split <;> first | rfl | exact absurd rfl h

/-- A failing command changes STATUS, ERRINFO and ERRARG alone. -/
theorem changesOnly_cmdError (s : State) (e : CmdErr) (h : Word) (he : s.err = false) :
    ChangesOnly s (s.cmdError e h)
      [(0x010, failedStatus s.status e), (0x014, h), (0x018, s.cmdArg)] := by
  rcases cmdError_cases s e h with ⟨h', _⟩ | ⟨_, h'⟩
  · rw [he] at h'; exact absurd h' (by decide)
  · rw [h']
    refine changesOnly_globals rfl rfl rfl rfl ⟨rfl, rfl, rfl⟩ ?_ ?_
    · simp [State.readGlobal]
    · intro a _ hp
      simp only [List.mem_cons, List.not_mem_nil, or_false, forall_eq_or_imp, forall_eq] at hp
      unfold State.readGlobal
      split <;> first | rfl | exact absurd rfl hp.1 | exact absurd rfl hp.2.1 | exact absurd rfl hp.2.2

end Sys2Proof.Machine
end

