-- ==== Sys2Proof/Laws/PerInstr.lean ====
section
/-! SUPPORT. The family EncodingMatches, one lemma for each constructor of `Instr`: the command's opcode is
a row of the opcode map (R88) with the command's class and SUB range, the row builds the command back
from its fields, and the fields the row fixes at 0 are 0 (R84). -/

namespace Sys2Proof.Laws.EncodingMatches

/-- The command and its row of R88 agree, and the fields that the row fixes are 0. -/
def Statement (i : Instr) : Prop :=
  (∃ row, opRow i.opc = some row ∧ row.cls = i.cls ∧ row.nsub = i.nsub ∧ row.build i.unit i.sub = i) ∧
    (i.cls = .G → i.unit = 0) ∧ (i.nsub = 0 → i.sub = 0)

/-- What is left to check for one command: its row, and the fields its row fixes. -/
theorem of_row {i : Instr} {row : OpRow} (hr : opRow i.opc = some row) (hc : row.cls = i.cls)
    (hn : row.nsub = i.nsub) (hb : row.build i.unit i.sub = i) (hu : i.cls = .G → i.unit = 0)
    (hs : i.nsub = 0 → i.sub = 0) : Statement i :=
  ⟨⟨row, hr, hc, hn, hb⟩, hu, hs⟩

theorem nop : Statement .nop :=
  of_row rfl rfl rfl rfl (fun _ => rfl) (fun _ => rfl)

theorem setSampleRate : Statement .setSampleRate :=
  of_row rfl rfl rfl rfl (fun _ => rfl) (fun _ => rfl)

theorem setMaxBlock : Statement .setMaxBlock :=
  of_row rfl rfl rfl rfl (fun _ => rfl) (fun _ => rfl)

theorem render : Statement .render :=
  of_row rfl rfl rfl rfl (fun _ => rfl) (fun _ => rfl)

theorem reset : Statement .reset :=
  of_row rfl rfl rfl rfl (fun _ => rfl) (fun _ => rfl)

theorem clearStatus : Statement .clearStatus :=
  of_row rfl rfl rfl rfl (fun _ => rfl) (fun _ => rfl)

theorem rampSetTarget : Statement .rampSetTarget :=
  of_row rfl rfl rfl rfl (fun _ => rfl) (fun _ => rfl)

theorem rampSetTime : Statement .rampSetTime :=
  of_row rfl rfl rfl rfl (fun _ => rfl) (fun _ => rfl)

theorem rampSetValue : Statement .rampSetValue :=
  of_row rfl rfl rfl rfl (fun _ => rfl) (fun _ => rfl)

theorem oscSetFreq (unit : Byte) : Statement (.oscSetFreq unit) :=
  of_row rfl rfl rfl rfl (by simp [Instr.cls]) (fun _ => rfl)

theorem oscSetWave (unit : Byte) : Statement (.oscSetWave unit) :=
  of_row rfl rfl rfl rfl (by simp [Instr.cls]) (fun _ => rfl)

theorem oscSetPw (unit : Byte) : Statement (.oscSetPw unit) :=
  of_row rfl rfl rfl rfl (by simp [Instr.cls]) (fun _ => rfl)

theorem oscSetFmul (unit : Byte) : Statement (.oscSetFmul unit) :=
  of_row rfl rfl rfl rfl (by simp [Instr.cls]) (fun _ => rfl)

theorem oscSetPoff (unit : Byte) : Statement (.oscSetPoff unit) :=
  of_row rfl rfl rfl rfl (by simp [Instr.cls]) (fun _ => rfl)

theorem oscSetPhase (unit : Byte) : Statement (.oscSetPhase unit) :=
  of_row rfl rfl rfl rfl (by simp [Instr.cls]) (fun _ => rfl)

theorem oscSetMode (unit : Byte) : Statement (.oscSetMode unit) :=
  of_row rfl rfl rfl rfl (by simp [Instr.cls]) (fun _ => rfl)

theorem oscEnable (unit : Byte) : Statement (.oscEnable unit) :=
  of_row rfl rfl rfl rfl (by simp [Instr.cls]) (fun _ => rfl)

theorem oscStep (unit : Byte) : Statement (.oscStep unit) :=
  of_row rfl rfl rfl rfl (by simp [Instr.cls]) (fun _ => rfl)

theorem oscTick (unit : Byte) : Statement (.oscTick unit) :=
  of_row rfl rfl rfl rfl (by simp [Instr.cls]) (fun _ => rfl)

theorem chEnable (unit : Byte) : Statement (.chEnable unit) :=
  of_row rfl rfl rfl rfl (by simp [Instr.cls]) (fun _ => rfl)

theorem chSetTapSrc (unit sub : Byte) : Statement (.chSetTapSrc unit sub) :=
  of_row rfl rfl rfl rfl (by simp [Instr.cls]) (by simp [Instr.nsub])

theorem chSetTapGain (unit sub : Byte) : Statement (.chSetTapGain unit sub) :=
  of_row rfl rfl rfl rfl (by simp [Instr.cls]) (by simp [Instr.nsub])

theorem chSetOffset (unit : Byte) : Statement (.chSetOffset unit) :=
  of_row rfl rfl rfl rfl (by simp [Instr.cls]) (fun _ => rfl)

theorem chSetClip (unit : Byte) : Statement (.chSetClip unit) :=
  of_row rfl rfl rfl rfl (by simp [Instr.cls]) (fun _ => rfl)

theorem chSetFlags (unit : Byte) : Statement (.chSetFlags unit) :=
  of_row rfl rfl rfl rfl (by simp [Instr.cls]) (fun _ => rfl)

theorem chSetCoef (unit sub : Byte) : Statement (.chSetCoef unit sub) :=
  of_row rfl rfl rfl rfl (by simp [Instr.cls]) (by simp [Instr.nsub])

theorem chClearHist (unit : Byte) : Statement (.chClearHist unit) :=
  of_row rfl rfl rfl rfl (by simp [Instr.cls]) (fun _ => rfl)

theorem chSetDry (unit : Byte) : Statement (.chSetDry unit) :=
  of_row rfl rfl rfl rfl (by simp [Instr.cls]) (fun _ => rfl)

theorem chSetWet (unit : Byte) : Statement (.chSetWet unit) :=
  of_row rfl rfl rfl rfl (by simp [Instr.cls]) (fun _ => rfl)

theorem chSetGain (unit : Byte) : Statement (.chSetGain unit) :=
  of_row rfl rfl rfl rfl (by simp [Instr.cls]) (fun _ => rfl)

theorem chSetPan (unit : Byte) : Statement (.chSetPan unit) :=
  of_row rfl rfl rfl rfl (by simp [Instr.cls]) (fun _ => rfl)

theorem ipEnable (unit : Byte) : Statement (.ipEnable unit) :=
  of_row rfl rfl rfl rfl (by simp [Instr.cls]) (fun _ => rfl)

theorem ipSetSrc (unit : Byte) : Statement (.ipSetSrc unit) :=
  of_row rfl rfl rfl rfl (by simp [Instr.cls]) (fun _ => rfl)

theorem ipSetDest (unit : Byte) : Statement (.ipSetDest unit) :=
  of_row rfl rfl rfl rfl (by simp [Instr.cls]) (fun _ => rfl)

theorem ipSetMin (unit : Byte) : Statement (.ipSetMin unit) :=
  of_row rfl rfl rfl rfl (by simp [Instr.cls]) (fun _ => rfl)

theorem ipSetMax (unit : Byte) : Statement (.ipSetMax unit) :=
  of_row rfl rfl rfl rfl (by simp [Instr.cls]) (fun _ => rfl)

end Sys2Proof.Laws.EncodingMatches
end

