-- ==== Sys2Proof/Laws/Units.lean ====
section
/-! SUPPORT. What the operations on one unit, and the ramp, can do, said once for each as the state they
leave; and how a block of frames splits. -/

namespace Sys2Proof.Machine

variable (s : State)

@[simp] theorem flagged_false (w m : Word) : flagged w m false = w := rfl

/-- Two conditions on one flag, one after the other. -/
theorem flagged_flagged (w m : Word) (b c : Bool) : flagged (flagged w m b) m c = flagged w m (b || c) := by
  cases b <;> cases c <;> simp [flagged, BitVec.or_assoc]

theorem noteRange_flagged (b : Bool) : s.noteRange b = { s with status := flagged s.status 0x100 b } :=
  noteRange_eq s b

theorem noteSat_flagged (b : Bool) : s.noteSat b = { s with status := flagged s.status 0x200 b } :=
  noteSat_eq s b

/-! ### Oscillators -/

/-- Recompute in full (R100). -/
theorem recompute_eq (n : Fin Config.nosc) :
    s.recompute n =
      { s with
        osc := s.osc.set n { s.osc[n] with pinc := mod32 (pincQuotient s.osc[n].freq s.sampleRate) }
        status := flagged s.status 0x100 (outOfRange32 (pincQuotient s.osc[n].freq s.sampleRate)) } := by
  simp only [State.recompute, noteRange_flagged]; rfl

/-- Advance in full (R101). -/
theorem advance_eq (n : Fin Config.nosc) :
    s.advance n =
      { s with
        osc := s.osc.set n s.osc[n].advance
        status := flagged s.status 0x100 (outOfRange32 s.osc[n].increment) } := by
  simp only [State.advance, noteRange_flagged]; rfl

/-- Evaluate in full (R104). -/
theorem evaluate_eq (n : Fin Config.nosc) :
    s.evaluate n = { s with osc := s.osc.set n s.osc[n].evaluate } := rfl

/-- An advance changes PHASE alone. -/
theorem osc_advance_eq (o : Osc) : o.advance = { o with phase := o.advance.phase } := rfl

/-- An evaluation changes OUT alone. -/
theorem osc_evaluate_eq (o : Osc) : o.evaluate = { o with out := toFx o.sample } := rfl

/-- A firing changes PHASE and OUT alone. -/
theorem osc_fired_eq (o : Osc) : o.fired = { o with phase := o.fired.phase, out := o.fired.out } := by
  unfold Osc.fired; split <;> rfl

/-- An advance leaves PINC and FMUL, and so the next increment. -/
@[simp] theorem osc_advance_increment (o : Osc) : o.advance.increment = o.increment := rfl

/-- Fire in full (R103): the unit fired, STATUS.RANGE set where its increment leaves one cycle, all else as
before. -/
theorem fire_eq (n : Fin Config.nosc) :
    s.fire n =
      { s with
        osc := s.osc.set n s.osc[n].fired
        status := flagged s.status 0x100 (outOfRange32 s.osc[n].increment) } := by
  by_cases hd : s.osc[n].dbl = true
  · have hd' : s.osc[n].advance.dbl = true := hd
    simp only [State.fire, advance_eq, Vector.getElem_set_self, Fin.getElem_fin] at *
    simp only [hd', if_true, evaluate_eq, Fin.getElem_fin, Vector.getElem_set_self, Vector.set_set,
      flagged_flagged, osc_advance_increment, Bool.or_self, Osc.fired, hd]
  · have hd' : ¬s.osc[n].advance.dbl = true := hd
    simp only [State.fire, advance_eq, Vector.getElem_set_self, Fin.getElem_fin] at *
    simp only [hd', evaluate_eq, Fin.getElem_fin, Vector.set_set, Osc.fired, hd]
    simp

/-- What `fireIf` can do: nothing, or a firing of an enabled unit in the mode. -/
theorem fireIf_cases (mode : BitVec 2) (n : Fin Config.nosc) :
    (s.osc[n].en = true ∧ s.osc[n].mode = mode ∧ s.fireIf mode n = s.fire n) ∨
    (¬(s.osc[n].en = true ∧ s.osc[n].mode = mode) ∧ s.fireIf mode n = s) := by
  unfold State.fireIf
  by_cases h : s.osc[n].en = true ∧ s.osc[n].mode = mode
  · exact .inl ⟨h.1, h.2, if_pos (by rw [h.1, h.2]; simp)⟩
  · refine .inr ⟨h, if_neg ?_⟩
    simpa using h

/-! ### Channels -/

/-- RunChannel in full (R164). -/
theorem runChannel_eq (c : Fin Config.nch) :
    s.runChannel c =
      { s with
        ch := s.ch.set c (s.ch[c].store (s.ch[c].compute s.oscOut))
        status := flagged s.status 0x200 (s.ch[c].compute s.oscOut).saturated } := by
  simp only [State.runChannel, noteSat_flagged]; rfl

/-- A channel's frame changes X1, X2, Y1, Y2 and OUT alone; the history only where the filter runs. -/
theorem channel_store_eq (c : Channel) (f : ChannelFrame) :
    c.store f =
      { c with
        x1 := if c.filtEn then toFx f.x else c.x1
        x2 := if c.filtEn then c.x1 else c.x2
        y1 := if c.filtEn then toFx f.y else c.y1
        y2 := if c.filtEn then c.y1 else c.y2
        out := toFx f.v } := by
  unfold Channel.store; cases h : c.filtEn <;> simp

/-! ### Interpolators -/

/-- What reading a source can do: nothing, or one firing of an enabled LFO_PER_READ oscillator (R142). -/
theorem drawSource_cases (src : Word) :
    s.drawSource src = s ∨
    ∃ h : src.toNat < Config.nosc, s.osc[src.toNat].en = true ∧ s.osc[src.toNat].mode = modeLfoPerRead ∧
      s.drawSource src = s.fire ⟨src.toNat, h⟩ := by
  unfold State.drawSource
  split
  · next h =>
    rcases fireIf_cases s modeLfoPerRead ⟨src.toNat, h⟩ with ⟨h1, h2, h3⟩ | ⟨_, h3⟩
    · exact .inr ⟨h, h1, h2, h3⟩
    · exact .inl h3
  · exact .inl rfl

/-- What a destination's write can do (R146): nothing, or set one of the listed registers of one unit. -/
theorem writeDest_cases (d a : Word) :
    s.writeDest d a = s ∨
    (∃ n f, s.writeDest d a = s.modifyOsc n f ∧
      (f = (fun o => { o with pw := a }) ∨ f = (fun o => { o with fmul := a }) ∨
        f = fun o => { o with poff := a })) ∨
    (∃ c f, s.writeDest d a = s.modifyCh c f ∧
      ((∃ t : Fin 4, f = fun ch => { ch with tapGain := ch.tapGain.set t a }) ∨
        f = (fun ch => { ch with offset := a }) ∨ f = (fun ch => { ch with clip := a }) ∨
        f = (fun ch => { ch with b0 := a }) ∨ f = (fun ch => { ch with b1 := a }) ∨
        f = (fun ch => { ch with b2 := a }) ∨ f = (fun ch => { ch with a1 := a }) ∨
        f = (fun ch => { ch with a2 := a }) ∨ f = (fun ch => { ch with dry := a }) ∨
        f = (fun ch => { ch with wet := a }) ∨ f = (fun ch => { ch with gain := a }) ∨
        f = fun ch => { ch with pan := a })) ∨
    (∃ k f, s.writeDest d a = s.modifyIp k f ∧
      (f = (fun i => { i with minVal := a }) ∨ f = fun i => { i with maxVal := a })) := by
  unfold State.writeDest atUnit
  split <;> (try split) <;> (try split) <;> try exact .inl rfl
  · exact .inr (.inl ⟨_, _, rfl, .inl rfl⟩)
  · exact .inr (.inl ⟨_, _, rfl, .inr (.inl rfl)⟩)
  · exact .inr (.inl ⟨_, _, rfl, .inr (.inr rfl)⟩)
  · exact .inr (.inr (.inl ⟨_, _, rfl, .inl ⟨_, rfl⟩⟩))
  · exact .inr (.inr (.inl ⟨_, _, rfl, .inr (.inl rfl)⟩))
  · exact .inr (.inr (.inl ⟨_, _, rfl, .inr (.inr (.inl rfl))⟩))
  · next c k =>
    refine .inr (.inr (.inl ⟨_, _, rfl, ?_⟩))
    generalize (⟨(headerSub d).toNat, _⟩ : Fin 5) = j
    fin_cases j
    · exact .inr (.inr (.inr (.inl rfl)))
    · exact .inr (.inr (.inr (.inr (.inl rfl))))
    · exact .inr (.inr (.inr (.inr (.inr (.inl rfl)))))
    · exact .inr (.inr (.inr (.inr (.inr (.inr (.inl rfl))))))
    · exact .inr (.inr (.inr (.inr (.inr (.inr (.inr (.inl rfl)))))))
  · exact .inr (.inr (.inl ⟨_, _, rfl, .inr (.inr (.inr (.inr (.inr (.inr (.inr (.inr (.inl rfl))))))))⟩))
  · exact .inr (.inr (.inl ⟨_, _, rfl, .inr (.inr (.inr (.inr (.inr (.inr (.inr (.inr (.inr (.inl rfl)))))))))⟩))
  · exact .inr (.inr (.inl ⟨_, _, rfl,
      .inr (.inr (.inr (.inr (.inr (.inr (.inr (.inr (.inr (.inr (.inl rfl))))))))))⟩))
  · exact .inr (.inr (.inl ⟨_, _, rfl,
      .inr (.inr (.inr (.inr (.inr (.inr (.inr (.inr (.inr (.inr (.inr rfl))))))))))⟩))
  · exact .inr (.inr (.inr ⟨_, _, rfl, .inl rfl⟩))
  · exact .inr (.inr (.inr ⟨_, _, rfl, .inr rfl⟩))

/-- The machine's affine map is R143's formula. -/
theorem mapRaw_eq_affineMap (i : Interp) (x : Int) :
    i.mapRaw x = affineMap (fx i.minVal) (fx i.maxVal) x := by
  simp [Interp.mapRaw, affineMap, asr, fxOne]

/-- The words of a destination: the operand that R146 gives its command. -/
theorem destOperand_eq_destWord (d : Word) (y : Int) : destOperand d y = destWord d y := by
  have h : headerOpc d = 0x14 ↔ headerField d 24 = 0x14 := by
    rw [← BitVec.toNat_inj]
    simp [headerOpc, headerField, Nat.shiftRight_eq_div_pow]
  simp only [destOperand, destWord, mod32, h]
  split <;> rfl

variable (t : State)

/-- R147 for the lowest interpolator: it sees what stood before the frame. -/
@[simp] theorem seenBy_zero (a : Nat) : s.seenBy t 0 a = s.readWord a := rfl

/-- R147: the interpolator above `k` sees what `k` wrote where `k` drives the register, else what `k` saw. -/
theorem seenBy_succ (k : Fin Config.nip) (a : Nat) :
    s.seenBy t (k.val + 1) a =
      if s.drives k a then destWord s.ip[k].dest (fx t.ip[k].out) else s.seenBy t k.val a := by
  rw [State.seenBy, dif_pos k.isLt]; rfl

@[simp] theorem drawnBy_zero (n : Fin Config.nosc) : s.drawnBy t n 0 = s.osc[n] := rfl

/-- One interpolator more: a firing where it is enabled and reads the oscillator, else nothing. -/
theorem drawnBy_succ (n : Fin Config.nosc) (k : Fin Config.nip) :
    s.drawnBy t n (k.val + 1) =
      if s.ip[k].en && s.ip[k].src.toNat == n.val then
        Osc.fired { s.drawnBy t n k.val with
          pw := s.seenBy t k.val (oscOffset n 0x10)
          fmul := s.seenBy t k.val (oscOffset n 0x14)
          poff := s.seenBy t k.val (oscOffset n 0x18) }
      else s.drawnBy t n k.val := by
  rw [State.drawnBy, dif_pos k.isLt]; rfl

/-! ### The ramp and a block of frames -/

/-- The ramp advance in full (R158): the three cases of RAMP_CNT. -/
theorem advanceRamp_cases :
    (s.rampCnt.toNat = 0 ∧ s.advanceRamp = s) ∨
    (s.rampCnt.toNat = 1 ∧ s.advanceRamp = { s with rampCnt := s.rampCnt - 1, rampCur := s.rampTarget }) ∨
    (2 ≤ s.rampCnt.toNat ∧
      s.advanceRamp =
        { s with rampCnt := s.rampCnt - 1, rampCur := toFx (fx s.rampCur + fx s.rampStep) }) := by
  have hc : 1 ≤ s.rampCnt.toNat → (s.rampCnt - 1).toNat = s.rampCnt.toNat - 1 := fun h =>
    BitVec.toNat_sub_of_le (by rw [BitVec.le_def]; exact h)
  unfold State.advanceRamp
  split
  · next h => exact .inl ⟨h, rfl⟩
  · next h =>
    dsimp only
    split
    · next h1 => exact .inr (.inl ⟨by omega, rfl⟩)
    · next h1 => exact .inr (.inr ⟨by omega, rfl⟩)

/-- A block of `n + m` frames is a block of `n` and then `m` frames from entry `i + n` on. -/
theorem renderFrom_add (i n m : Nat) : s.renderFrom i (n + m) = (s.renderFrom i n).renderFrom (i + n) m := by
  induction n generalizing s i with
  | zero => simp [State.renderFrom]
  | succ n ih =>
    rw [Nat.add_right_comm, State.renderFrom, ih, State.renderFrom, Nat.add_right_comm i 1 n, Nat.add_assoc i n 1]

/-- What every frame keeps, a block keeps. -/
theorem renderFrom_keeps (P : State → Prop) (hP : ∀ s i, P s → P (s.renderFrame i)) (i n : Nat) (h : P s) :
    P (s.renderFrom i n) := by
  induction n generalizing s i with
  | zero => exact h
  | succ n ih => exact ih _ _ (hP s i h)

end Sys2Proof.Machine
end

