-- ==== Sys2Proof/Tests/Slice0.lean ====
section
/-! SUPPORT. Tests: what is well formed, the decoding of words written out from R84 and R88, one or two
steps of each command with the results that spec/95_test_vectors.md or a rule's own Example gives, and a
witness for the hypotheses of every obligation that has some. -/

namespace Sys2Proof.Tests

open Sys2Proof Sys2Proof.Machine

-- one test at a time: many kernel evaluations at once ask for more threads than the checker allows
set_option Elab.async false

/-! ### Helpers -/

/-- The state after one step, where the step answers one. -/
def next (s : State) : Option State :=
  match step s with
  | .next t => some t
  | _ => none

/-- The state `s` with CMD_ARG `arg`, in which the host's next access writes `h` to CMD. -/
def issuing (s : State) (arg h : Word) : State :=
  { s with cmdArg := arg, events := [.write .word 0x020 h] }

/-- The words at these offsets after the step that executes header `h` with `arg`. -/
def after (s : State) (arg h : Word) (offsets : List Nat) : Option (List Word) :=
  (next (issuing s arg h)).map fun t => offsets.map t.readWord

/-- A state with oscillator 0 as given. -/
def withOsc (o : Osc) : State := State.reset.modifyOsc 0 fun _ => o

/-- A state with the master gain at 1.0 and channel 0 enabled, with OFFSET `x`, otherwise `c`. -/
def withChannel (x : Word) (c : Channel) : State :=
  { State.reset.modifyCh 0 fun _ => { c with ctrl := c.ctrl ||| 1, offset := x } with
    rampCur := 0x01000000 }

/-- A state whose next bus event is `e`. -/
def withEvent (e : BusEvent) : State := { State.reset with events := [e] }

/-! ### Well formed: each check refuses its ill-formed term -/

theorem test_wf_unit_osc_31 : (Instr.oscTick 31).wellFormed = true := by decide
theorem test_wf_unit_osc_32_refused : (Instr.oscTick 32).wellFormed = false := by decide
theorem test_wf_unit_ch_15 : (Instr.chEnable 15).wellFormed = true := by decide
theorem test_wf_unit_ch_16_refused : (Instr.chEnable 16).wellFormed = false := by decide
theorem test_wf_unit_ip_15 : (Instr.ipSetDest 15).wellFormed = true := by decide
theorem test_wf_unit_ip_16_refused : (Instr.ipSetDest 16).wellFormed = false := by decide
theorem test_wf_sub_tap_3 : (Instr.chSetTapSrc 0 3).wellFormed = true := by decide
theorem test_wf_sub_tap_src_4_refused : (Instr.chSetTapSrc 0 4).wellFormed = false := by decide
theorem test_wf_sub_tap_gain_4_refused : (Instr.chSetTapGain 0 4).wellFormed = false := by decide
theorem test_wf_sub_coef_4 : (Instr.chSetCoef 0 4).wellFormed = true := by decide
theorem test_wf_sub_coef_5_refused : (Instr.chSetCoef 0 5).wellFormed = false := by decide
theorem test_wf_class_G : Instr.render.wellFormed = true := by decide

/-! ### Decoding: OPC 31:24, UNIT 23:16, SUB 15:8, RSVD 7:0 (R84), with the opcodes of R88 -/

theorem test_decode_nop : decode 0b00000000_00000000_00000000_00000000 = .ok .nop := by decide
theorem test_decode_setSampleRate : decode 0b00000001_00000000_00000000_00000000 = .ok .setSampleRate := by decide
theorem test_decode_setMaxBlock : decode 0b00000010_00000000_00000000_00000000 = .ok .setMaxBlock := by decide
theorem test_decode_render : decode 0b00000011_00000000_00000000_00000000 = .ok .render := by decide
theorem test_decode_reset : decode 0b00000100_00000000_00000000_00000000 = .ok .reset := by decide
theorem test_decode_clearStatus : decode 0b00000101_00000000_00000000_00000000 = .ok .clearStatus := by decide
theorem test_decode_rampSetTarget : decode 0b00000110_00000000_00000000_00000000 = .ok .rampSetTarget := by decide
theorem test_decode_rampSetTime : decode 0b00000111_00000000_00000000_00000000 = .ok .rampSetTime := by decide
theorem test_decode_rampSetValue : decode 0b00001000_00000000_00000000_00000000 = .ok .rampSetValue := by decide
theorem test_decode_oscSetFreq : decode 0b00010000_00011111_00000000_00000000 = .ok (.oscSetFreq 31) := by decide
theorem test_decode_oscSetWave : decode 0b00010001_00011111_00000000_00000000 = .ok (.oscSetWave 31) := by decide
theorem test_decode_oscSetPw : decode 0b00010010_00011111_00000000_00000000 = .ok (.oscSetPw 31) := by decide
theorem test_decode_oscSetFmul : decode 0b00010011_00011111_00000000_00000000 = .ok (.oscSetFmul 31) := by decide
theorem test_decode_oscSetPoff : decode 0b00010100_00011111_00000000_00000000 = .ok (.oscSetPoff 31) := by decide
theorem test_decode_oscSetPhase : decode 0b00010101_00011111_00000000_00000000 = .ok (.oscSetPhase 31) := by decide
theorem test_decode_oscSetMode : decode 0b00010110_00011111_00000000_00000000 = .ok (.oscSetMode 31) := by decide
theorem test_decode_oscEnable : decode 0b00010111_00011111_00000000_00000000 = .ok (.oscEnable 31) := by decide
theorem test_decode_oscStep : decode 0b00011000_00011111_00000000_00000000 = .ok (.oscStep 31) := by decide
theorem test_decode_oscTick : decode 0b00011001_00011111_00000000_00000000 = .ok (.oscTick 31) := by decide
theorem test_decode_chEnable : decode 0b00100000_00001010_00000000_00000000 = .ok (.chEnable 10) := by decide
theorem test_decode_chSetTapSrc : decode 0b00100001_00001010_00000010_00000000 = .ok (.chSetTapSrc 10 2) := by decide
theorem test_decode_chSetTapGain : decode 0b00100010_00001010_00000011_00000000 = .ok (.chSetTapGain 10 3) := by decide
theorem test_decode_chSetOffset : decode 0b00100011_00001010_00000000_00000000 = .ok (.chSetOffset 10) := by decide
theorem test_decode_chSetClip : decode 0b00100100_00001010_00000000_00000000 = .ok (.chSetClip 10) := by decide
theorem test_decode_chSetFlags : decode 0b00100101_00001010_00000000_00000000 = .ok (.chSetFlags 10) := by decide
theorem test_decode_chSetCoef : decode 0b00100110_00001010_00000100_00000000 = .ok (.chSetCoef 10 4) := by decide
theorem test_decode_chClearHist : decode 0b00100111_00001010_00000000_00000000 = .ok (.chClearHist 10) := by decide
theorem test_decode_chSetDry : decode 0b00101000_00001010_00000000_00000000 = .ok (.chSetDry 10) := by decide
theorem test_decode_chSetWet : decode 0b00101001_00001010_00000000_00000000 = .ok (.chSetWet 10) := by decide
theorem test_decode_chSetGain : decode 0b00101010_00001010_00000000_00000000 = .ok (.chSetGain 10) := by decide
theorem test_decode_chSetPan : decode 0b00101011_00001010_00000000_00000000 = .ok (.chSetPan 10) := by decide
theorem test_decode_ipEnable : decode 0b00110000_00001010_00000000_00000000 = .ok (.ipEnable 10) := by decide
theorem test_decode_ipSetSrc : decode 0b00110001_00001010_00000000_00000000 = .ok (.ipSetSrc 10) := by decide
theorem test_decode_ipSetDest : decode 0b00110010_00001010_00000000_00000000 = .ok (.ipSetDest 10) := by decide
theorem test_decode_ipSetMin : decode 0b00110011_00001010_00000000_00000000 = .ok (.ipSetMin 10) := by decide
theorem test_decode_ipSetMax : decode 0b00110100_00001010_00000000_00000000 = .ok (.ipSetMax 10) := by decide

/-- VE1: 0x09 is no opcode. -/
theorem test_decode_reserved_opcode : decode 0x09000000 = .error .opcode := by decide
/-- VE2: the opcode is checked first. -/
theorem test_decode_opcode_first : decode 0xFFFFFFFF = .error .opcode := by decide
/-- VE3. -/
theorem test_decode_rsvd : decode 0x00000001 = .error .rsvd := by decide
/-- VE4: UNIT of a class G opcode. -/
theorem test_decode_global_unit : decode 0x03010000 = .error .rsvd := by decide
/-- VE5: SUB of an opcode without SUB. -/
theorem test_decode_unused_sub : decode 0x10000100 = .error .rsvd := by decide
/-- VE13: RSVD before UNIT and SUB. -/
theorem test_decode_rsvd_first : decode 0x21FF0701 = .error .rsvd := by decide
/-- VE12 decodes to its row; its UNIT and SUB fail when it executes. -/
theorem test_decode_unit_and_sub_bad : decode 0x21FF0700 = .ok (.chSetTapSrc 0xFF 7) := by decide
/-- The table's numbering: bit 0 is the header's bit 0. -/
theorem test_table_word : decodeTableWord 32 0x26010300 = some (.chSetCoef 1 3) := by decide
/-- The table's word placed and stepped: NOP sets CMD only. -/
theorem test_fetch_word : next (State.reset.withFetchWord 32 0) =
    some { State.reset with response := some .writeDone } := by decide +kernel

/-! ### The bus (VB1 to VB11) -/

theorem test_bus_id : (next (withEvent (.read .word 0x000))).map (·.response) =
    some (some (.readData 0x57494331)) := by decide +kernel
theorem test_bus_byte_order : [0, 1, 2, 3].map State.reset.readByte = [0x31, 0x43, 0x49, 0x57] := by
  decide +kernel
theorem test_bus_config : [0x004, 0x008, 0x00C, 0x024, 0x028, 0x1400, 0x4800, 0x6200, 0xA000].map
    State.reset.readWord =
    [0x00010000, 0x00101020, 0x00000400, 0x0000AC44, 0x00000200, 0, 0, 0, 0] := by decide +kernel
theorem test_bus_write_ro_ignored : next (withEvent (.write .word 0x024 48000)) =
    some { State.reset with response := some .writeDone } := by decide +kernel
theorem test_bus_misaligned_read : next (withEvent (.read .word 0x002)) =
    some { State.reset with response := some (.readError 0) } := by decide +kernel
theorem test_bus_byte_write_of_CMD : next (withEvent (.write .byte 0x020 0)) =
    some { State.reset with response := some .writeError } := by decide +kernel
theorem test_bus_outside_window : step (withEvent (.read .word 0x10000)) =
    .fault (.outsideWindow 0x10000) := rfl

/-! ### One step of each command -/

/-- VK6: NOP keeps CMD_ARG. -/
theorem test_nop : after State.reset 0x12345678 0x00000000 [0x010, 0x01C] = some [0, 0x12345678] := by
  decide +kernel
/-- VO2 and VR9: the rate recomputes PINC and RAMP_LEN. -/
theorem test_set_sample_rate :
    after { withOsc { Osc.reset with freq := 0x01B80000, pinc := 0x028DDFB9 } with rampTime := 10 }
      48000 0x01000000 [0x024, 0x038, 0x1000, 0x1004] =
    some [48000, 480, 0x01B80000, 0x0258BF25] := by decide +kernel
/-- VE14. -/
theorem test_set_sample_rate_zero : after State.reset 0 0x01000000 [0x010, 0x014, 0x018, 0x024] =
    some [0x51, 0x01000000, 0, 44100] := by decide +kernel
/-- VE17 and VE16. -/
theorem test_set_max_block_cap : after State.reset 0x400 0x02000000 [0x010, 0x028] = some [0, 0x400] := by
  decide +kernel
theorem test_set_max_block_above : after State.reset 0x401 0x02000000 [0x010, 0x018, 0x028] =
    some [0x51, 0x401, 0x200] := by decide +kernel
/-- R175's Example (VK1): two frames of a channel that gives 0.5. -/
theorem test_render : after (withChannel 0x00800000 Channel.reset) 2 0x03000000
    [0x8000, 0x8004, 0x8008, 0x800C, 0x02C, 0x048, 0x04C] =
    some [0x00800000, 0x00800000, 0x00800000, 0x00800000, 2, 0x00800000, 0x00800000] := by
  decide +kernel
/-- VE18: above MAX_BLOCK no frame is rendered. -/
theorem test_render_above_max_block : after State.reset 0x201 0x03000000 [0x010, 0x018, 0x02C] =
    some [0x51, 0x201, 0] := by decide +kernel
/-- VK3. -/
theorem test_reset : after { withChannel 7 Channel.reset with frameCount := 2, maxBlock := 4 } 9 0x04000000
    [0x010, 0x01C, 0x020, 0x024, 0x028, 0x02C, 0x03C, 0x4000] =
    some [0, 0, 0x04000000, 44100, 512, 0, 0, 0] := by decide +kernel
/-- VE45 and VE46, on ERR, RANGE and SAT together. -/
theorem test_clear_status : after { State.reset with status := 0x351, errInfo := 1, errArg := 2 } 0x101
    0x05000000 [0x010, 0x014, 0x018] = some [0x200, 0, 0] := by decide +kernel
/-- VE21. -/
theorem test_clear_status_reserved_bit : after State.reset 0x400 0x05000000 [0x010, 0x018] =
    some [0x51, 0x400] := by decide +kernel
/-- VR3 and VR4: the step is truncated toward zero. -/
theorem test_ramp_set_target : after { State.reset with rampLen := 3 } 0x01000000 0x06000000
    [0x030, 0x03C, 0x040, 0x044] = some [0x01000000, 0, 0x00555555, 3] := by decide +kernel
theorem test_ramp_set_target_down : after { State.reset with rampLen := 3, rampCur := 0x01000000 } 0
    0x06000000 [0x030, 0x03C, 0x040, 0x044] = some [0, 0x01000000, 0xFFAAAAAB, 3] := by decide +kernel
/-- VR9. -/
theorem test_ramp_set_time : after State.reset 10 0x07000000 [0x034, 0x038] = some [10, 441] := by
  decide +kernel
theorem test_ramp_set_time_clamped : after { State.reset with sampleRate := 0xFFFFFFFF } 0xFFFFFFFF
    0x07000000 [0x038] = some [0xFFFFFFFF] := by decide +kernel
/-- R163. -/
theorem test_ramp_set_value : after { State.reset with rampStep := 5, rampCnt := 6 } 0x01000000 0x08000000
    [0x030, 0x03C, 0x040, 0x044] = some [0x01000000, 0x01000000, 0, 0] := by decide +kernel
/-- VO1 and VO6. -/
theorem test_osc_set_freq : after State.reset 0x01B80000 0x10000000 [0x1000, 0x1004, 0x010] =
    some [0x01B80000, 0x028DDFB9, 0] := by decide +kernel
theorem test_osc_set_freq_range : after State.reset 0xAC440001 0x101F0000 [0x13E0, 0x13E4, 0x010] =
    some [0xAC440001, 1, 0x100] := by decide +kernel
/-- R113, and VE22. -/
theorem test_osc_set_wave : after (withOsc { Osc.reset with ctrl := 0x3D }) 2 0x11000000 [0x100C] =
    some [0x3E] := by decide +kernel
theorem test_osc_set_wave_4 : after State.reset 4 0x11000000 [0x010, 0x100C] = some [0x51, 0] := by
  decide +kernel
/-- VB8. -/
theorem test_osc_set_pw : after State.reset 0x00400000 0x12010000 [0x1030, 0x1010] =
    some [0x00400000, 0x00800000] := by decide +kernel
/-- R115, and VE6's unit check. -/
theorem test_osc_set_fmul : after State.reset 0x01017BA5 0x13020000 [0x1054, 0x1034] =
    some [0x01017BA5, 0x01000000] := by decide +kernel
theorem test_osc_unit_32 : after State.reset 0 0x10200000 [0x010, 0x014] = some [0x31, 0x10200000] := by
  decide +kernel
/-- R116. -/
theorem test_osc_set_poff : after State.reset 0x40000000 0x14000000 [0x1018, 0x1008] =
    some [0x40000000, 0] := by decide +kernel
/-- R117. -/
theorem test_osc_set_phase : after State.reset 0x40000000 0x15000000 [0x1008, 0x1018] =
    some [0x40000000, 0] := by decide +kernel
/-- VE26 on a used CTRL, and VE23. -/
theorem test_osc_set_mode : after (withOsc { Osc.reset with ctrl := 0x23 }) 6 0x16000000 [0x100C] =
    some [0x3B] := by decide +kernel
theorem test_osc_set_mode_3 : after State.reset 3 0x16000000 [0x010, 0x100C] = some [0x51, 0] := by
  decide +kernel
/-- R119, and VE27. -/
theorem test_osc_enable : after (withOsc { Osc.reset with ctrl := 0x03 }) 1 0x17000000 [0x100C] =
    some [0x23] := by decide +kernel
theorem test_osc_enable_2 : after State.reset 2 0x17000000 [0x010, 0x100C] = some [0x51, 0] := by
  decide +kernel
/-- VA1 and VA11. -/
theorem test_osc_step_wraps : after (withOsc { Osc.reset with pinc := 0x028DDFB9, phase := 0xFFFFF000 }) 0
    0x18000000 [0x1008, 0x101C, 0x010] = some [0x028DCFB9, 0, 0] := by decide +kernel
theorem test_osc_step_backward : after (withOsc { Osc.reset with pinc := 3, fmul := 0xFF800000 }) 0
    0x18000000 [0x1008, 0x010] = some [0xFFFFFFFE, 0x100] := by decide +kernel
/-- E12's saw, and VW4's square. -/
theorem test_osc_tick_saw :
    after (withOsc { Osc.reset with pinc := 0x40000000, phase := 0x40000000, ctrl := 3, out := 9 }) 0
      0x19000000 [0x1008, 0x101C] = some [0x80000000, 0] := by decide +kernel
theorem test_osc_tick_square : after (withOsc { Osc.reset with phase := 0x80000001, ctrl := 1 }) 0
    0x19000000 [0x1008, 0x101C] = some [0x80000001, 0xFF800000] := by decide +kernel
/-- R129, and VE28. -/
theorem test_ch_enable : after (withChannel 0 { Channel.reset with ctrl := 0xF }) 0 0x20000000 [0x4000] =
    some [0xE] := by decide +kernel
theorem test_ch_enable_2 : after State.reset 2 0x20000000 [0x010, 0x4000] = some [0x51, 0] := by
  decide +kernel
/-- VE31 at tap 3, and VE30. -/
theorem test_ch_set_tap_src : after State.reset 31 0x21000300 [0x4010, 0x400C] = some [31, 0xFF] := by
  decide +kernel
theorem test_ch_set_tap_src_FE : after State.reset 0xFE 0x21000000 [0x010, 0x4004] = some [0x51, 0xFF] := by
  decide +kernel
/-- R131, and VE9's SUB check. -/
theorem test_ch_set_tap_gain : after State.reset 0x00400000 0x22010200 [0x409C, 0x4098] =
    some [0x00400000, 0] := by decide +kernel
theorem test_ch_tap_4 : after State.reset 0 0x22000400 [0x010, 0x014] = some [0x41, 0x22000400] := by
  decide +kernel
/-- R132. -/
theorem test_ch_set_offset : after State.reset 0x00800000 0x23000000 [0x4024] = some [0x00800000] := by
  decide +kernel
/-- R133. -/
theorem test_ch_set_clip : after State.reset 0x00400000 0x240F0000 [0x47A8] = some [0x00400000] := by
  decide +kernel
/-- R134, and VE32. -/
theorem test_ch_set_flags : after (withChannel 0 Channel.reset) 5 0x25000000 [0x4000] = some [0xB] := by
  decide +kernel
theorem test_ch_set_flags_8 : after State.reset 8 0x25000000 [0x010, 0x4000] = some [0x51, 0] := by
  decide +kernel
/-- VE11: coefficient 4 is A2; and VE10. -/
theorem test_ch_set_coef : after State.reset 0xFF000000 0x26000400 [0x403C, 0x4038] =
    some [0xFF000000, 0] := by decide +kernel
theorem test_ch_coef_5 : after State.reset 0 0x26000500 [0x010, 0x014] = some [0x41, 0x26000500] := by
  decide +kernel
/-- VC11. -/
theorem test_ch_clear_hist :
    after (withChannel 0 { Channel.reset with x1 := 1, x2 := 2, y1 := 3, y2 := 4, out := 0x00100000 }) 0
      0x27000000 [0x4040, 0x4044, 0x4048, 0x404C, 0x4060] = some [0, 0, 0, 0, 0x00100000] := by
  decide +kernel
/-- R137 to R140. -/
theorem test_ch_set_dry : after State.reset 0x00333333 0x28000000 [0x4050, 0x4054] =
    some [0x00333333, 0x01000000] := by decide +kernel
theorem test_ch_set_wet : after State.reset 0x00CCCCCD 0x29000000 [0x4050, 0x4054] =
    some [0, 0x00CCCCCD] := by decide +kernel
theorem test_ch_set_gain : after State.reset 0x00800000 0x2A000000 [0x4058, 0x405C] =
    some [0x00800000, 0] := by decide +kernel
theorem test_ch_set_pan : after State.reset 0x00800000 0x2B000000 [0x4058, 0x405C] =
    some [0x01000000, 0x00800000] := by decide +kernel
/-- R149, and VE33. -/
theorem test_ip_enable : after State.reset 1 0x300F0000 [0x61E0] = some [1] := by decide +kernel
theorem test_ip_enable_2 : after State.reset 2 0x30000000 [0x010, 0x6000] = some [0x51, 0] := by
  decide +kernel
/-- R150, and VE34. -/
theorem test_ip_set_src : after State.reset 31 0x31000000 [0x6004] = some [31] := by decide +kernel
theorem test_ip_set_src_32 : after State.reset 32 0x31000000 [0x010, 0x6004] = some [0x51, 0] := by
  decide +kernel
/-- VE40, and VE35. -/
theorem test_ip_set_dest : after State.reset 0x26000400 0x32000000 [0x6008] = some [0x26000400] := by
  decide +kernel
theorem test_ip_set_dest_freq : after State.reset 0x10020000 0x32000000 [0x010, 0x018, 0x6008] =
    some [0x51, 0x10020000, 0] := by decide +kernel
/-- R152 and R153. -/
theorem test_ip_set_min : after State.reset 0xFFC00000 0x33000000 [0x600C, 0x6010] =
    some [0xFFC00000, 0] := by decide +kernel
theorem test_ip_set_max : after State.reset 0x00400000 0x34000000 [0x600C, 0x6010] =
    some [0, 0x00400000] := by decide +kernel

/-! ### One frame: filter, interpolator, pan, ramp -/

/-- VC8's first frame: the one-pole filter. -/
theorem test_frame_filter :
    after (withChannel 0x00800000 { Channel.reset with ctrl := 4, b0 := 0x00800000, a1 := 0xFF800000 }) 1
      0x03000000 [0x4040, 0x4044, 0x4048, 0x404C, 0x4060] =
    some [0x00800000, 0, 0x00400000, 0, 0x00400000] := by decide +kernel
/-- VD3: a disabled source at +1.0 moves POFF, shifted left by 8. -/
theorem test_frame_poff :
    after { State.reset.modifyOsc 1 fun o => { o with out := 0x01000000 } with
      ip := State.reset.ip.set 0
        { ctrl := 1, src := 1, dest := 0x14000000, minVal := 0xFFC00000, maxVal := 0x00400000, out := 0 } }
      1 0x03000000 [0x6014, 0x1018, 0x010] = some [0x00400000, 0x40000000, 0] := by decide +kernel
/-- VD1: interpolator 0 writes MAX of interpolator 1, which sees it in the same frame. -/
theorem test_frame_order :
    after { withOsc { Osc.reset with out := 0x01000000 } with
      ip := (State.reset.ip.set 0 { Interp.reset with
        ctrl := 1, dest := 0x34010000, minVal := 0x00800000, maxVal := 0x00800000 }).set 1
          { Interp.reset with ctrl := 1 } }
      1 0x03000000 [0x6010 + 0x20, 0x6014 + 0x20] = some [0x00800000, 0x00800000] := by decide +kernel
/-- VN8: PAN of one LSB rounds the left gain down. -/
theorem test_frame_pan : after (withChannel 0x00800000 { Channel.reset with ctrl := 8, pan := 1 }) 1
    0x03000000 [0x048, 0x04C] = some [0x003FFFFF, 0x00400000] := by decide +kernel
/-- VC13: saturation is counted in STATUS.SAT. -/
theorem test_frame_saturates : after (withChannel 0x80000000 { Channel.reset with gain := 0xFF000000 }) 1
    0x03000000 [0x4060, 0x010] = some [0x7FFFFFFF, 0x200] := by decide +kernel
/-- VQ1 to VQ4: what S2 fixes of SINE. -/
theorem test_sine_quarters : Config.sine 0 = 0 ∧ Config.sine 0x40000000 = 0x1000000 ∧
    Config.sine 0x80000000 = 0 ∧ Config.sine 0xC0000000 = -0x1000000 :=
  (@Config.sineTable ⟨Config.sineWitness⟩).quarters

/-! ### The assembler's text: the examples of R94 and R95, and an expansion of R97 -/

theorem test_read_hz : readLine "osc_set_freq o3, hz(440)".toList =
    some [⟨.oscSetFreq 3, some 0x01B80000⟩] := by decide +kernel
theorem test_read_dest : readLine "ip_set_dest i0, dest(ch_set_coef c1[3])".toList =
    some [⟨.ipSetDest 0, some 0x26010300⟩] := by decide +kernel
theorem test_read_ip_map : readLine "ip_map i0, o1, 0x13020000, -1, 0.005 ; vibrato".toList =
    some [⟨.ipSetSrc 0, some 1⟩, ⟨.ipSetDest 0, some 0x13020000⟩, ⟨.ipSetMin 0, some 0xFF000000⟩,
      ⟨.ipSetMax 0, some 0x000147AE⟩, ⟨.ipEnable 0, some 1⟩] := by decide +kernel

/-! ### Witnesses: states and operands that meet the hypotheses of each obligation, a boundary value for
each clause -/

/-- A state that RENDER takes, with `n` frames of at most 1024. -/
def rendering (n : Word) : State := { State.reset with cmdArg := n, maxBlock := 1024 }

/-- A state with oscillator 0 enabled in LFO_ONCE mode, oscillator 1 in AUDIO mode, 2 in LFO_PER_READ mode,
channel 0 enabled with its filter and channel 1 without, and interpolator 15 reading oscillator 0 into
oscillator 1's POFF; the host's next access is OSC_TICK of oscillator 1. -/
def running : State :=
  { State.reset with
    cmdArg := 1
    osc := ((State.reset.osc.set 0 { Osc.reset with ctrl := 0x27 }).set 1
      { Osc.reset with ctrl := 0x23 }).set 2 { Osc.reset with ctrl := 0x2B }
    ch := (State.reset.ch.set 0 { Channel.reset with ctrl := 0xF }).set 1 { Channel.reset with ctrl := 1 }
    ip := State.reset.ip.set 15
      { ctrl := 1, src := 0, dest := 0x14010000, minVal := 0xFFC00000, maxVal := 0x00400000, out := 0 }
    events := [.write .word 0x020 0x19010000] }

theorem inv_running : Inv running :=
  by constructor <;> decide +kernel

theorem witness_EncodeGivesBackHeader : decode 0x26FFFF00 = .ok (.chSetCoef 0xFF 0xFF) := by decide
theorem witness_MaskAndMatchSelectRow : (∃ i, decode 0x21FF0700 = .ok i ∧ i.opc = 0x21) ∧
    ∃ row, opRow 0x21 = some row ∧ (0x21FF0700 : Word) &&& rowMask row = (0x21 : Byte).setWidth 32 <<< 24 :=
  ⟨⟨.chSetTapSrc 0xFF 7, by decide, by decide⟩, ⟨_, rfl, by decide⟩⟩

/-- A header and an operand for each of the five checks, just outside what it allows. -/
theorem witness_ExecuteChecksInOrder_fails :
    FailsWith 0x35000000 0 512 .opcode ∧ FailsWith 0x34000001 0 512 .rsvd ∧
    FailsWith 0x03010000 0 512 .rsvd ∧ FailsWith 0x10200000 0 512 .unit ∧
    FailsWith 0x26000500 0 512 .sub ∧ FailsWith 0x03000000 513 512 .arg := by
  refine ⟨?_, ?_, ?_, ?_, ?_, ?_⟩ <;>
    simp [FailsWith, illegalOpcode, unitLimit, subCount, argAllowed, headerField]
theorem witness_ExecuteChecksInOrder_passes : PassesChecks 0x260F0400 0xFFFFFFFF 512 ∧
    PassesChecks 0x03000000 512 512 := by
  constructor <;> intro e <;> cases e <;>
    simp [FailsWith, illegalOpcode, unitLimit, subCount, argAllowed, headerField]
theorem witness_FailedCommandRecordsFirstError :
    ({ State.reset with status := 0x11 } : State).err = true ∧ State.reset.err = false := by decide
theorem witness_StepExecutesWrittenHeader :
    (State.reset.withFetchWord 32 0x191F0000).events = [.write .word 0x020 0x191F0000] ∧
    decode 0x191F0000 = .ok (.oscTick 31) ∧ decode 0x35000000 = .error .opcode :=
  ⟨rfl, by decide, by decide⟩
theorem witness_IdleBlockKeepsState : State.reset.events = [] := rfl
theorem witness_BusReadReturnsWord : (withEvent (.read .word 0xFFFC)).events = [.read .word 0xFFFC] ∧
    0xFFFC < 0x10000 ∧ 0xFFFC % 4 = 0 ∧ reservedOffset 0xFFFC ∧ reservedOffset 0x50 ∧
    reservedOffset 0x4064 ∧ reservedOffset 0x6018 ∧ reservedOffset 0xA000 ∧ ¬reservedOffset 0x4060 := by
  simp [reservedOffset, withEvent]
theorem witness_BusErrorChangesNothing :
    (withEvent (.read .half 0xFFFE)).events = [.read .half 0xFFFE] ∧
    (withEvent (.write .word 0x021 0)).events = [.write .word 0x021 0] ∧
    Width.half ≠ .word ∧ 0xFFFE < 0x10000 ∧ 0x021 % 4 ≠ 0 := by decide
theorem witness_BusWriteActsByOffset :
    (withEvent (.write .word 0x01C 7)).events = [.write .word 0x01C 7] ∧
    (withEvent (.write .word 0x024 7)).events = [.write .word 0x024 7] ∧
    0x01C % 4 = 0 ∧ 0x024 % 4 = 0 ∧ 0x024 ≠ 0x01C ∧ 0x024 ≠ 0x020 := by decide
theorem witness_WordsAreLittleEndian : 0x9FFC % 4 = 0 ∧ 0x8000 ≤ 0x9FFC ∧ 0x9FFC < 0xA000 ∧ 3 < 4 := by
  decide
theorem witness_WindowHoldsRegisters : 1023 < 1024 ∧ reservedOffset 0x61FC ∧ reservedOffset 0x1400 := by
  simp only [reservedOffset]; decide
theorem witness_AssembledLineExecutes :
    ({ State.reset with events := Line.writes ⟨.render, some 1⟩ } : State).events =
      Line.writes ⟨.render, some 1⟩ ++ [] ∧
    ({ State.reset with events := Line.writes ⟨.nop, none⟩ } : State).events =
      Line.writes ⟨.nop, none⟩ ++ [] := ⟨rfl, rfl⟩
theorem witness_HardwareResetState : (withEvent .hardReset).events = .hardReset :: [] ∧
    0x7FFC % 4 = 0 ∧ 0x7FFC < 0x8000 ∧ 0x8000 ≤ 0x9FFF ∧ 0x9FFF < 0xA000 := by decide
theorem witness_ResetCommandState : 0x024 % 4 = 0 ∧ 0x024 < 0x8000 ∧ 0x024 ≠ 0x020 ∧ 0x9FFC % 4 = 0 ∧
    0x8000 ≤ 0x9FFC := by decide
theorem witness_SilentUntilRampIsSet :
    let s := rendering 1024
    s.rampCur = 0 ∧ s.rampCnt = 0 ∧ s.cmdArg.toNat ≤ s.maxBlock.toNat ∧ s.maxBlock.toNat ≤ 1024 ∧
      1023 < s.cmdArg.toNat := by decide
theorem witness_SetSampleRateEffect : ({ State.reset with cmdArg := 1 } : State).cmdArg.toNat ≠ 0 := by
  decide
theorem witness_SetMaxBlockEffect : 1 ≤ (rendering 1).cmdArg.toNat ∧ (rendering 1024).cmdArg.toNat ≤ 1024 := by
  decide
theorem witness_ClearStatusEffect : (rendering 0x301).cmdArg &&& 0xFFFFFCFE = 0 ∧
    (rendering 0).cmdArg &&& 0xFFFFFCFE = 0 := by decide
theorem witness_RenderCompletesWithFrame :
    (rendering 1024).cmdArg.toNat ≤ (rendering 1024).maxBlock.toNat ∧
    (rendering 1024).maxBlock.toNat ≤ 1024 ∧ 0 < (rendering 1024).cmdArg.toNat ∧
    (rendering 0).cmdArg = 0 ∧ 0x9FFC % 4 = 0 ∧ 0x8000 + 8 * (rendering 1023).cmdArg.toNat ≤ 0x9FFC := by
  decide
/-- PW of oscillator 31 and PAN of channel 15: no stage writes them, and no interpolator of `running`. -/
theorem witness_RenderCompletesWithFrame_undriven :
    (∀ a ∈ [oscOffset 31 0x10, chOffset 15 0x5C], a % 4 = 0 ∧ ¬stageWritten 1 a) ∧
    ∀ k : Fin 16, running.drives k (oscOffset 31 0x10) = false ∧
      running.drives k (chOffset 15 0x5C) = false := by
  refine ⟨?_, by decide +kernel⟩
  unfold stageWritten
  decide +kernel
theorem witness_RenderSplitsIntoBlocks : 512 + 512 ≤ (rendering 0).maxBlock.toNat ∧
    (rendering 0).maxBlock.toNat ≤ 1024 ∧ 511 < 512 := by decide
theorem witness_RampSetTargetEffect :
    State.reset.rampLen.toNat = 0 ∧ ({ State.reset with rampLen := 1 } : State).rampLen.toNat = 1 ∧
    2 ≤ ({ State.reset with rampLen := 2 } : State).rampLen.toNat := by decide
theorem witness_RampIsLinearAndReachesTarget :
    1 ≤ ({ State.reset with rampLen := 1 } : State).rampLen.toNat ∧
    1 ≤ ({ State.reset with rampLen := 2 } : State).rampLen.toNat - 1 := by decide
theorem witness_OscSetFreqEffect : (31 : Byte).toNat < 32 ∧ State.reset.sampleRate.toNat ≠ 0 := by decide
theorem witness_OscParameterWrites : (31 : Byte).toNat < 32 := by decide
theorem witness_OscControlWrites : (31 : Byte).toNat < 32 ∧ (rendering 3).cmdArg.toNat ≤ 3 ∧
    (rendering 6).cmdArg.toNat < 8 ∧ (rendering 6).cmdArg.toNat % 4 ≠ 3 ∧ (rendering 1).cmdArg.toNat ≤ 1 := by
  decide
theorem witness_OscStepEffect : (31 : Byte).toNat < 32 := by decide
theorem witness_OscTickEffect : (31 : Byte).toNat < 32 ∧
    (0 : Word) = BitVec.ofInt 32 (State.reset.osc[31].phase.toNat + phaseStep State.reset.osc[31]) := by
  decide +kernel
/-- Increments 0 and `2^32 - 1`, the second on either side of the end of the cycle; and one of each kind
outside. -/
theorem witness_AdvanceSubtractsOneCycle :
    phaseStep (withOsc Osc.reset).osc[0] = (0 : Nat) ∧
    phaseStep (withOsc { Osc.reset with pinc := 0xFFFFFFFF }).osc[0] = (0xFFFFFFFF : Nat) ∧
    (0xFFFFFFFF : Nat) < 2 ^ 32 ∧
    (withOsc { Osc.reset with pinc := 0xFFFFFFFF }).osc[0].phase.toNat + 0xFFFFFFFF < 2 ^ 32 ∧
    ¬(withOsc { Osc.reset with pinc := 0xFFFFFFFF, phase := 1 }).osc[0].phase.toNat + 0xFFFFFFFF < 2 ^ 32 ∧
    phaseStep (withOsc { Osc.reset with pinc := 1, fmul := 0xFFFFFFFF }).osc[0] < 0 ∧
    2 ^ 32 ≤ phaseStep (withOsc { Osc.reset with pinc := 0x80000000, fmul := 0x02000000 }).osc[0] := by
  decide +kernel
theorem witness_WaveformLaws :
    ((0x80000000 : Word).toNat : ℚ) / 2 ^ 32 ≤ ((0x800000 : Int) : ℚ) / 2 ^ 24 ∧
    ((0x800000 : Int) : ℚ) / 2 ^ 24 < ((0x80000001 : Word).toNat : ℚ) / 2 ^ 32 ∧
    (-1 : Int) < 0 ∧ (2 ^ 24 : Int) ≤ 0x1000000 := by
  refine ⟨?_, ?_, by decide, by decide⟩ <;> simp <;> norm_num
theorem witness_SamplesStayInRange : (31 : Byte).toNat < 32 ∧
    (withOsc Osc.reset).osc[0].wave = 0 ∧ (withOsc { Osc.reset with ctrl := 1 }).osc[0].wave = 1 ∧
    (withOsc { Osc.reset with ctrl := 2 }).osc[0].wave = 2 ∧
    (withOsc { Osc.reset with ctrl := 3 }).osc[0].wave = 3 := by decide +kernel
/-- Half a cycle per advance from phase 0: advances 1 and 3 (counted from 0) wrap, 2 does not. -/
theorem witness_PhasePeriod :
    let o := { Osc.reset with pinc := 0x80000000 }
    let wraps := fun k => 2 ^ 32 ≤ (Osc.advance^[k] o).phase.toNat + 0x80000000
    o.increment = (0x80000000 : Nat) ∧ 0 < 0x80000000 ∧ 0x80000000 < 2 ^ 32 ∧
      wraps 1 ∧ wraps 3 ∧ ∀ l, 1 < l → l < 3 → ¬wraps l := by
  refine ⟨by decide +kernel, by decide, by decide, by decide +kernel, by decide +kernel, fun l h1 h2 => ?_⟩
  obtain rfl : l = 2 := by omega
  decide +kernel
theorem witness_ChannelParameterWrites : (15 : Byte).toNat < 16 := by decide
theorem witness_ChannelControlWrites : (15 : Byte).toNat < 16 ∧ (rendering 1).cmdArg.toNat ≤ 1 ∧
    (rendering 7).cmdArg.toNat < 8 := by decide
theorem witness_ChannelTapWrites : (15 : Byte).toNat < 16 ∧ (3 : Byte).toNat < 4 ∧
    (rendering 31).cmdArg.toNat < 32 ∧ (rendering 0xFF).cmdArg.toNat = 0xFF := by decide
theorem witness_ChannelCoefficientAndHistoryWrites : (15 : Byte).toNat < 16 ∧ (4 : Byte).toNat < 5 := by
  decide
theorem witness_InterpolatorWrites : (15 : Byte).toNat < 16 ∧ (rendering 1).cmdArg.toNat ≤ 1 ∧
    (rendering 31).cmdArg.toNat < 32 ∧ validDestination 0 ∧ validDestination 0x141F0000 ∧
    validDestination 0x220F0300 ∧ validDestination 0x260F0400 ∧ validDestination 0x340F0000 ∧
    ¬validDestination 0x10020000 := by
  refine ⟨by decide, by decide, by decide, ?_, ?_, ?_, ?_, ?_, ?_⟩ <;>
    simp [validDestination, headerField, unitLimit]
theorem witness_InterpolatorMapProperties :
    let up := { Interp.reset with minVal := 0x80000000, maxVal := 0x7FFFFFFF }
    let down := { Interp.reset with minVal := 0x01000000, maxVal := 0xFF000000 }
    (-0x1000000 : Int) ≤ -0x1000000 ∧ (-0x1000000 : Int) ≤ 0x1000000 ∧ fx up.minVal ≤ fx up.maxVal ∧
      fx down.maxVal < fx down.minVal := by decide
theorem witness_OscillatorsFireOncePerFrame : running.cmdArg = 1 ∧ 1 ≤ running.maxBlock.toNat ∧
    running.osc[0].en = true ∧ running.osc[0].mode = modeLfoOnce ∧
    running.osc[1].en = true ∧ running.osc[1].mode = modeAudio ∧ running.osc[2].mode = modeLfoPerRead := by
  decide +kernel

/-- Oscillator 0, a saw in LFO_PER_READ mode at a quarter of the rate, read by interpolators 0, 1 and 15:
the first drives MAX of the second, the second the oscillator's FMUL. -/
def drawing : State :=
  { withOsc { Osc.reset with pinc := 0x40000000, ctrl := 0x2B } with
    cmdArg := 1
    ip := ((State.reset.ip.set 0 { Interp.reset with ctrl := 1, dest := 0x34010000 }).set 1
      { Interp.reset with ctrl := 1, dest := 0x13000000 }).set 15 { Interp.reset with ctrl := 1 } }

theorem witness_PerReadOscillatorDrawsPerReader : drawing.cmdArg = 1 ∧ 1 ≤ drawing.maxBlock.toNat ∧
    drawing.destsValid ∧ drawing.osc[0].en = true ∧ drawing.osc[0].mode = modeLfoPerRead ∧
    drawing.ip[1].en = true ∧ drawing.ip[1].src.toNat = 0 ∧ drawing.ip[1].dest ≠ 0 ∧
    (∀ j : Fin 16, 1 < j → drawing.drives j (destOffset drawing.ip[1].dest) = false) ∧
    drawing.drives 0 (ipOffset 1 0x10) = true ∧ drawing.readersUpTo 0 15 = 3 := by
  refine ⟨rfl, by decide, ?_, by decide +kernel⟩
  intro k hk
  have h : drawing.ip[k].dest ∈ [0, 0x34010000, 0x13000000] := by revert k; decide +kernel
  simp only [List.mem_cons, List.not_mem_nil, or_false] at h
  rcases h with h | h | h <;> rw [h] <;> simp [validDestination, headerField, unitLimit]
/-- The same with no destination: nothing drives the oscillator. -/
theorem witness_PerReadOscillatorDrawsPerReader_undriven :
    let s := { drawing with ip := drawing.ip.map fun i : Interp => { i with dest := 0 } }
    (∀ k : Fin 16, s.drives k (oscOffset 0 0x10) = false ∧ s.drives k (oscOffset 0 0x14) = false ∧
      s.drives k (oscOffset 0 0x18) = false) ∧ s.readersUpTo 0 15 = 3 := by decide +kernel
theorem witness_InterpolatorMapsSourceToDestination : Inv running ∧ running.cmdArg = 1 ∧
    running.ip[15].en = true ∧ running.ip[15].src.toNat = 0 ∧ running.osc[0].mode ≠ modeLfoPerRead ∧
    running.ip[15].dest ≠ 0 ∧
    (∀ j : Fin 16, 15 < j → running.drives j (destOffset running.ip[15].dest) = false) := by
  refine ⟨inv_running, ?_⟩
  decide +kernel
/-- The last reader of a LFO_PER_READ source, and an enabled AUDIO source. -/
theorem witness_InterpolatorMapsSourceToDestination_sources :
    (∀ j : Fin 16, 15 < j → drawing.ip[j].en = true → drawing.ip[j].src.toNat ≠ 0) ∧
    drawing.osc[0].mode = modeLfoPerRead ∧ running.osc[1].en = true ∧ running.osc[1].mode = modeAudio := by
  decide +kernel
theorem witness_ChannelComputesFrame : Inv running ∧ running.cmdArg = 1 ∧ running.ch[0].en = true ∧
    running.ch[0].filtEn = true ∧ running.ch[0].clipEn = true ∧ running.ch[1].en = true ∧
    running.ch[1].filtEn = false := by
  refine ⟨inv_running, ?_⟩
  decide +kernel
theorem witness_FrameMixesAndAppliesRamp : running.cmdArg = 1 ∧ 1 ≤ running.maxBlock.toNat ∧
    running.rampCnt.toNat = 0 ∧ ({ running with rampCnt := 1 } : State).rampCnt.toNat = 1 ∧
    2 ≤ ({ running with rampCnt := 2 } : State).rampCnt.toNat := by decide +kernel
theorem witness_DisabledUnitsKeepTheirState : running.cmdArg.toNat ≤ running.maxBlock.toNat ∧
    running.osc[31].en = false ∧ running.ch[15].en = false ∧ running.ch[1].filtEn = false ∧
    running.ip[14].en = false := by decide +kernel
/-- PAN at the centre, at and past both ends, and odd; PAN_EN set and clear. -/
theorem witness_PanLawGains :
    let c : Channel := { Channel.reset with ctrl := 8 }
    Channel.reset.panEn = false ∧ c.panEn = true ∧ fx c.pan = 0 ∧
      fx { c with pan := 0xFF000000 }.pan ≤ -0x1000000 ∧ 0x1000000 ≤ fx { c with pan := 0x01000000 }.pan ∧
      (1 : Int) = max (-0x1000000) (min 0x1000000 (fx { c with pan := 1 }.pan)) ∧ (1 : Int) % 2 = 1 := by
  decide
theorem witness_ArithmeticPrimitives : (-0x80000000 : Int) ≤ -0x80000000 ∧ (-0x80000000 : Int) ≤ 0x7FFFFFFF ∧
    (0x7FFFFFFF : Int) < 0x80000000 ∧ (-0x80000001 : Int) < -0x80000000 ∧ (0 : Int) < 1 := by decide
/-- A step that fires an enabled oscillator. -/
theorem witness_StepKeepsInvariants : Inv running ∧ (next running).isSome = true ∧
    next running ≠ some running := by
  refine ⟨inv_running, ?_⟩
  decide +kernel
/-- An active ramp of three frames, and the frame that a step renders on it. -/
theorem witness_StepKeepsRampWithinTarget :
    let s := { issuing State.reset 1 0x03000000 with
      rampTarget := 0x01000000, rampStep := 0x00555555, rampCnt := 3 }
    RampInv s ∧ 0 < s.rampCnt.toNat ∧ (next s).map (·.rampCnt) = some 2 :=
  ⟨fun _ => .inl (by decide), by decide, by decide +kernel⟩
theorem witness_FlagsAreSticky :
    let s := { State.reset with status := 0x331 }
    exec (.oscSetPw 32) s = .next s ∧ Instr.oscSetPw 32 ≠ .clearStatus ∧ Instr.oscSetPw 32 ≠ .reset ∧
      s.rangeFlag = true ∧ s.satFlag = true ∧ s.err = true := by
  refine ⟨rfl, ?_⟩; decide
theorem witness_OnlyRenderWritesOutbuf :
    let s := issuing State.reset 1 0x19000000
    (next s).isSome = true ∧ s.events.head? ≠ some .hardReset ∧
      s.events.head? ≠ some (.write .word 0x020 0x03000000) ∧ 0x8000 ≤ 0x9FFC ∧ 0x9FFC % 4 = 0 := by
  decide +kernel
theorem witness_RegistersHaveTheirWriters :
    exec (.oscSetPw 31) State.reset = .next (State.reset.writeOscPw 31 0) ∧
    Instr.oscSetPw 31 ≠ .rampSetTarget ∧ Instr.oscSetPw 31 ≠ .reset ∧ Instr.oscSetPw 31 ≠ .render ∧
    Instr.oscSetPw 31 ≠ .setSampleRate ∧ Instr.oscSetPw 31 ≠ .oscSetFreq (BitVec.ofNat 8 31) := by
  refine ⟨rfl, ?_⟩; decide
theorem witness_CommandsNeverReadOutbuf :
    exec .render (rendering 1) = .next ((rendering 1).renderBlock 1) ∧
    exec .render { rendering 1 with outbuf := [(0x8000, 7)] } =
      .next ({ rendering 1 with outbuf := [(0x8000, 7)] }.renderBlock 1) := ⟨rfl, rfl⟩
/-- Two instances side by side, and an access to the second. -/
theorem witness_InstancesAreIndependent :
    let p : Platform := [⟨0, State.reset⟩, ⟨0x10000, State.reset⟩]
    Platform.wf p ∧
      Platform.access p 0x1001C (fun a => .write .word a 7) =
        .next [⟨0, State.reset⟩,
          ⟨0x10000, { State.reset with cmdArg := 7, response := some .writeDone }⟩] :=
  ⟨by decide +kernel, rfl⟩

theorem witness_FrameRecordsSaturation : Inv running ∧ running.cmdArg = 1 := ⟨inv_running, rfl⟩

end Sys2Proof.Tests
end

section
/-! PROOF. The arithmetic primitives (R13 to R16; O51), and that every step completes but for an access
outside the window (R18, R178, R92; O12). -/

namespace Sys2Proof.Machine

/-! ### The arithmetic primitives -/

/-- `asr` is the floor of the exact quotient (R13). -/
theorem asr_eq_floor (v : Int) (s : Nat) : asr v s = ⌊(v : ℚ) / 2 ^ s⌋ := by
  have h := Rat.floor_intCast_div_natCast v (2 ^ s)
  push_cast at h
  rw [h, asr]
  push_cast
  rfl

/-- sat32 clamps to FX, and `saturates` says when it changes its argument (R14). -/
theorem sat32_clamps (v : Int) :
    (-0x80000000 ≤ v → v ≤ 0x7FFFFFFF → sat32 v = v) ∧ (0x7FFFFFFF < v → sat32 v = 0x7FFFFFFF) ∧
      (v < -0x80000000 → sat32 v = -0x80000000) ∧ (saturates v = true ↔ sat32 v ≠ v) := by
  refine ⟨?_, ?_, ?_, ?_⟩
  · unfold sat32; omega
  · unfold sat32; omega
  · unfold sat32; omega
  · rw [Ne, sat32_eq_iff, Bool.not_eq_false]

/-- `fxmul` rounds the exact product down and clamps it (R15). -/
theorem fxmul_eq_sat32_floor (a b : Int) : fxmul a b = sat32 ⌊(a * b : ℚ) / 2 ^ 24⌋ := by
  rw [fxmul, fxProduct, asr_eq_floor, Int.cast_mul]

/-- `truncDiv` rounds the magnitude's quotient down and keeps the dividend's sign (R16). -/
theorem truncDiv_eq_sign_mul (a : Int) {b : Int} (hb : 0 < b) :
    truncDiv a b = Int.sign a * ((a.natAbs / b.natAbs : Nat) : Int) := by
  have magnitudes : ((a.natAbs / b.natAbs : Nat) : Int) = Int.tdiv a.natAbs b := by
    rw [Int.natCast_div, Int.natAbs_of_nonneg hb.le, Int.tdiv_eq_ediv_of_nonneg (Int.natCast_nonneg _)]
  rw [truncDiv, magnitudes]
  rcases lt_trichotomy a 0 with ha | rfl | ha
  · rw [Int.sign_eq_neg_one_of_neg ha, Int.ofNat_natAbs_of_nonpos ha.le, Int.neg_tdiv]; omega
  · simp
  · rw [Int.sign_eq_one_of_pos ha, Int.natAbs_of_nonneg ha.le, one_mul]

/-- `mod32` is the residue modulo `2^32`, of a negative number too (R16). -/
theorem toNat_mod32 (v : Int) : ((mod32 v).toNat : Int) = v % 2 ^ 32 := by
  rw [mod32, BitVec.toNat_ofInt, Int.toNat_of_nonneg (Int.emod_nonneg _ (by decide))]
  rfl

/-! ### Every command completes -/

/-- The outcome is a next state: neither a fault nor a refusal. -/
def Completes (r : Result) : Prop := ∃ t, r = .next t

theorem completes_next (t : State) : Completes (.next t) := ⟨t, rfl⟩

theorem withArg_completes (legal : Bool) (h : Word) (s done : State) :
    Completes (withArg legal h s done) := completes_next _

theorem withUnit_completes {limit : Nat} {h : Word} {unit : Byte} {s : State} {k : Fin limit → Result}
    (hk : ∀ n, Completes (k n)) : Completes (withUnit limit h unit s k) := by
  by_cases hu : unit.toNat < limit
  · rw [withUnit_ok s h k hu]; exact hk _
  · rw [withUnit_bad s h k hu]; exact completes_next _

theorem withSub_completes {nsub : Nat} {h : Word} {sub : Byte} {s : State} {k : Fin nsub → Result}
    (hk : ∀ n, Completes (k n)) : Completes (withSub nsub h sub s k) := by
  by_cases hs : sub.toNat < nsub
  · rw [withSub_ok s h k hs]; exact hk _
  · rw [withSub_bad s h k hs]; exact completes_next _

/-- Every command answers a next state (R18, R178). The groups are those of the checks of R86 that the
commands make: none, ARG, UNIT, UNIT and ARG, UNIT and SUB, or all three. -/
theorem exec_completes (i : Instr) (s : State) : Completes (exec i s) := by
  cases i with
  | nop | reset | rampSetTarget | rampSetTime | rampSetValue => exact completes_next _
  | setSampleRate | setMaxBlock | render | clearStatus => exact withArg_completes _ _ _ _
  | oscSetFreq unit | oscSetPw unit | oscSetFmul unit | oscSetPoff unit | oscSetPhase unit
  | oscStep unit | oscTick unit | chSetOffset unit | chSetClip unit | chClearHist unit | chSetDry unit
  | chSetWet unit | chSetGain unit | chSetPan unit | ipSetMin unit | ipSetMax unit =>
    dsimp only [exec, execOscSetFreq, execOscSetPw, execOscSetFmul, execOscSetPoff, execOscSetPhase,
      execOscStep, execOscTick, execChSetOffset, execChSetClip, execChClearHist, execChSetDry,
      execChSetWet, execChSetGain, execChSetPan, execIpSetMin, execIpSetMax]
    exact withUnit_completes fun _ => completes_next _
  | oscSetWave unit | oscSetMode unit | oscEnable unit | chEnable unit | chSetFlags unit
  | ipEnable unit | ipSetSrc unit | ipSetDest unit =>
    dsimp only [exec, execOscSetWave, execOscSetMode, execOscEnable, execChEnable, execChSetFlags,
      execIpEnable, execIpSetSrc, execIpSetDest]
    exact withUnit_completes fun _ => withArg_completes _ _ _ _
  | chSetTapGain unit sub | chSetCoef unit sub =>
    dsimp only [exec, execChSetTapGain, execChSetCoef]
    exact withUnit_completes fun _ => withSub_completes fun _ => completes_next _
  | chSetTapSrc unit sub =>
    dsimp only [exec, execChSetTapSrc]
    exact withUnit_completes fun _ => withSub_completes fun _ => withArg_completes _ _ _ _

/-! ### Every access inside the window completes -/

/-- A header that does not decode is a failed command (R92, R181), which completes. -/
theorem execute_completes (s : State) (h : Word) : Completes (s.execute h) := by
  unfold State.execute
  cases decode h with
  | error e => exact completes_next _
  | ok i => exact exec_completes i s

theorem memWrite_completes (s : State) (a : Nat) (v : Word) : Completes (s.memWrite a v) := by
  unfold State.memWrite
  split_ifs
  · exact completes_next _
  · exact execute_completes _ v
  · exact completes_next _

theorem busRead_cases (s : State) (w : Width) (a : Nat) :
    Completes (s.busRead w a) ∨ (0x10000 ≤ a ∧ s.busRead w a = .fault (.outsideWindow a)) := by
  unfold State.busRead
  split_ifs with hout
  · exact .inr ⟨hout, rfl⟩
  · exact .inl (completes_next _)
  · exact .inl (completes_next _)

theorem busWrite_cases (s : State) (w : Width) (a : Nat) (v : Word) :
    Completes (s.busWrite w a v) ∨ (0x10000 ≤ a ∧ s.busWrite w a v = .fault (.outsideWindow a)) := by
  unfold State.busWrite
  split_ifs with hout
  · exact .inr ⟨hout, rfl⟩
  · exact .inl (memWrite_completes _ a v)
  · exact .inl (completes_next _)

/-! ### A step, by the event that is next -/

theorem step_of_no_event {s : State} (h : s.events = []) : step s = .next s := by
  unfold step State.nextEvent; rw [h]

theorem step_of_event {s : State} {e : BusEvent} {rest : List BusEvent} (h : s.events = e :: rest) :
    step s = { s with events := rest }.perform e := by
  unfold step State.nextEvent; rw [h]

end Sys2Proof.Machine

open Sys2Proof Sys2Proof.Machine

/-- Settles O51: the five primitives, each by its own lemma. -/
theorem arithmeticPrimitives : Obligations.ArithmeticPrimitives :=
  ⟨asr_eq_floor, sat32_clamps, fxmul_eq_sat32_floor, fun a _ hb => truncDiv_eq_sign_mul a hb, toNat_mod32⟩

/-- Settles O12, by the event that is next: only a read or a write outside the window does not
complete. -/
theorem stepStopsOnlyOutsideWindow : Obligations.StepStopsOnlyOutsideWindow := by
  intro s
  rcases hev : s.events with _ | ⟨e, rest⟩
  · exact .inl ⟨s, step_of_no_event hev⟩
  rw [step_of_event hev]
  cases e with
  | read w a =>
    exact (busRead_cases _ w a).imp id fun ⟨hout, hf⟩ => ⟨a, hout, hf, .inl ⟨w, rest, rfl⟩⟩
  | write w a v =>
    exact (busWrite_cases _ w a v).imp id fun ⟨hout, hf⟩ => ⟨a, hout, hf, .inr ⟨w, v, rest, rfl⟩⟩
  | hardReset => exact .inl (completes_next _)
end

section
/-! PROOF. STATUS.SAT in a frame (R14, R31, R178; O60): stages 1 to 3 leave it, because an oscillator's OUT
stays in [-1, 1] and the affine map of an interpolator then stays between MIN and MAX; stages 4 and 5 set
it exactly where one of their sat32s changes its argument. -/

namespace Sys2Proof.Machine

/-! ### Where sat32 changes its argument -/

theorem saturates_iff_outsideFx (v : Int) : saturates v = true ↔ outsideFx v := by
  simp only [saturates, outsideFx, Bool.or_eq_true, decide_eq_true_eq]; omega

theorem asr_twentyFour (v : Int) : asr v 24 = v / 2 ^ 24 := rfl

/-! ### The flag -/

theorem getLsbD_nine_flagged_range (w : Word) (b : Bool) :
    (flagged w 0x100 b).getLsbD 9 = w.getLsbD 9 := by
  cases b <;> simp [flagged]

theorem getLsbD_nine_flagged_sat (w : Word) (b : Bool) :
    (flagged w 0x200 b).getLsbD 9 = (w.getLsbD 9 || b) := by
  cases b <;> simp [flagged]

@[simp] theorem fire_satFlag (s : State) (n : Fin Config.nosc) : (s.fire n).satFlag = s.satFlag := by
  rw [fire_eq]; exact getLsbD_nine_flagged_range _ _

@[simp] theorem noteSat_satFlag (s : State) (b : Bool) : (s.noteSat b).satFlag = (s.satFlag || b) := by
  rw [noteSat_flagged]; exact getLsbD_nine_flagged_sat _ _

@[simp] theorem noteSat_false (s : State) : s.noteSat false = s := rfl

/-- A flag that each turn can set, on a condition that the other units' turns leave alone, is set after
the loop where it was set before or some unit's condition held. -/
theorem forUnits_sets_iff {n : Nat} {f : Fin n → State → State} (G : State → Prop)
    (p : Fin n → State → Prop) (hf : ∀ u s, G (f u s) ↔ G s ∨ p u s)
    (hp : ∀ u v s, u ≠ v → (p u (f v s) ↔ p u s)) (s : State) :
    G (forUnits n f s) ↔ G s ∨ ∃ u, p u s := by
  have on_list : ∀ (us : List (Fin n)) (s : State), us.Nodup →
      (G (us.foldl (fun s u => f u s) s) ↔ G s ∨ ∃ u ∈ us, p u s) := by
    intro us
    induction us with
    | nil => simp
    | cons u us ih =>
      intro s hnd
      obtain ⟨hu, hnd⟩ := List.nodup_cons.1 hnd
      have others : (∃ v ∈ us, p v (f u s)) ↔ ∃ v ∈ us, p v s :=
        exists_congr fun v => and_congr_right fun hv => hp v u s fun e => hu (e ▸ hv)
      rw [List.foldl_cons, ih _ hnd, hf, others]
      simp only [List.mem_cons, exists_eq_or_imp, or_assoc]
  simpa [forUnits] using on_list (List.finRange n) s (List.nodup_finRange n)

/-! ### Oscillator outputs stay in [-1, 1] (R109) -/

/-- The range of R109, on an OUT word. -/
def OutInRange (w : Word) : Prop := -0x1000000 ≤ fx w ∧ fx w ≤ 0x1000000

/-- Every waveform stays in [-1, 1]; the sine by S1. -/
theorem osc_sample_range (o : Osc) : -0x1000000 ≤ o.sample ∧ o.sample ≤ 0x1000000 := by
  have hq := o.lookupPhase.isLt
  unfold Osc.sample
  split_ifs
  · exact (@Config.sineTable ⟨Config.sineWitness⟩).range _
  · simp only [squareWave, fxHalf]; split <;> omega
  · simp only [triangleWave, sawWave, fxHalf]; omega
  · simp only [sawWave, fxHalf]; omega

theorem osc_evaluate_outInRange (o : Osc) : OutInRange o.evaluate.out := by
  obtain ⟨hlo, hhi⟩ := osc_sample_range o
  have hfx : fx o.evaluate.out = o.sample := fx_toFx ⟨by omega, by omega⟩
  rw [OutInRange, hfx]
  exact ⟨hlo, hhi⟩

theorem osc_fired_outInRange (o : Osc) : OutInRange o.fired.out := osc_evaluate_outInRange _

/-- The value an interpolator reads is in [-1, 1], whatever its SRC. -/
theorem oscOut_range {s : State} (hs : ∀ n : Fin Config.nosc, OutInRange s.osc[n].out) (i : Word) :
    -0x1000000 ≤ s.oscOut i ∧ s.oscOut i ≤ 0x1000000 := by
  unfold State.oscOut
  split
  · next h => exact hs ⟨i.toNat, h⟩
  · omega

/-! ### The interpolator's map never saturates (R144) -/

/-- A share `w` of `2^25` of a distance, rounded down, lies between 0 and the distance. -/
theorem share_between {w : Int} (d : Int) (h0 : 0 ≤ w) (h1 : w ≤ 2 ^ 25) :
    min 0 d ≤ w * d / 2 ^ 25 ∧ w * d / 2 ^ 25 ≤ max 0 d := by
  rcases le_total 0 d with hd | hd
  · have hlo : 0 ≤ w * d := mul_nonneg h0 hd
    have hhi : w * d ≤ 2 ^ 25 * d := mul_le_mul_of_nonneg_right h1 hd
    omega
  · have hlo : 2 ^ 25 * d ≤ w * d := mul_le_mul_of_nonpos_right h1 hd
    have hhi : w * d ≤ 0 := mul_nonpos_of_nonneg_of_nonpos h0 hd
    omega

/-- On a source value in [-1, 1] the affine map stays between MIN and MAX (R144). -/
theorem mapRaw_between (i : Interp) {x : Int} (h0 : -0x1000000 ≤ x) (h1 : x ≤ 0x1000000) :
    min (fx i.minVal) (fx i.maxVal) ≤ i.mapRaw x ∧ i.mapRaw x ≤ max (fx i.minVal) (fx i.maxVal) := by
  have h := share_between (w := x + 2 ^ 24) (fx i.maxVal - fx i.minVal) (by omega) (by omega)
  rw [mapRaw_eq_affineMap, affineMap]
  omega

theorem mapRaw_not_saturates (i : Interp) {x : Int} (h0 : -0x1000000 ≤ x) (h1 : x ≤ 0x1000000) :
    saturates (i.mapRaw x) = false := by
  have hmap := mapRaw_between i h0 h1
  have hmin := fx_range i.minVal
  have hmax := fx_range i.maxVal
  rw [← Bool.not_eq_true, saturates_iff_outsideFx, outsideFx]
  omega

/-! ### Stages 1 to 3 -/

/-- The channel registers that neither an oscillator nor an interpolator writes: CTRL and the filter
history. -/
def Channel.undriven (c : Channel) : Word × Word × Word × Word × Word := (c.ctrl, c.x1, c.x2, c.y1, c.y2)

/-- What stages 1 to 3 keep from the state `s` before the frame: the range of every OUT, STATUS.SAT, and
the channel registers that nothing drives. -/
structure InputsKept (s t : State) : Prop where
  outs : ∀ n : Fin Config.nosc, OutInRange t.osc[n].out
  sat : t.satFlag = s.satFlag
  undriven : ∀ c : Fin Config.nch, t.ch[c].undriven = s.ch[c].undriven

variable {s t : State}

theorem inputsKept_refl (h : Inv s) : InputsKept s s := ⟨h.outRange, rfl, fun _ => rfl⟩

/-- A change of one oscillator that leaves its OUT in range. -/
theorem inputsKept_modifyOsc (h : InputsKept s t) (n : Fin Config.nosc) {f : Osc → Osc}
    (hf : OutInRange t.osc[n].out → OutInRange (f t.osc[n]).out) : InputsKept s (t.modifyOsc n f) where
  outs m := by
    by_cases hm : m = n
    · subst hm; rw [modifyOsc_osc_same]; exact hf (h.outs m)
    · rw [modifyOsc_osc_other _ _ hm]; exact h.outs m
  sat := h.sat
  undriven := h.undriven

/-- A change of one channel that leaves CTRL and the history. -/
theorem inputsKept_modifyCh (h : InputsKept s t) (c : Fin Config.nch) {f : Channel → Channel}
    (hf : ∀ ch, (f ch).undriven = ch.undriven) : InputsKept s (t.modifyCh c f) where
  outs := h.outs
  sat := h.sat
  undriven d := by
    by_cases hd : d = c
    · subst hd; rw [modifyCh_ch_same, hf]; exact h.undriven d
    · rw [modifyCh_ch_other _ _ hd]; exact h.undriven d

theorem inputsKept_modifyIp (h : InputsKept s t) (k : Fin Config.nip) (f : Interp → Interp) :
    InputsKept s (t.modifyIp k f) := ⟨h.outs, h.sat, h.undriven⟩

theorem inputsKept_fire (h : InputsKept s t) (n : Fin Config.nosc) : InputsKept s (t.fire n) where
  outs := by
    have hosc : (t.fire n).osc = (t.modifyOsc n Osc.fired).osc := by rw [fire_eq]; rfl
    rw [hosc]
    exact (inputsKept_modifyOsc h n fun _ => osc_fired_outInRange _).outs
  sat := (fire_satFlag t n).trans h.sat
  undriven := by
    have hch : (t.fire n).ch = t.ch := by rw [fire_eq]
    rw [hch]
    exact h.undriven

theorem inputsKept_fireIf (h : InputsKept s t) (mode : BitVec 2) (n : Fin Config.nosc) :
    InputsKept s (t.fireIf mode n) := by
  rcases fireIf_cases t mode n with ⟨-, -, e⟩ | ⟨-, e⟩ <;> rw [e]
  · exact inputsKept_fire h n
  · exact h

theorem inputsKept_drawSource (h : InputsKept s t) (src : Word) : InputsKept s (t.drawSource src) := by
  rcases drawSource_cases t src with e | ⟨hn, -, -, e⟩ <;> rw [e]
  · exact h
  · exact inputsKept_fire h _

/-- A destination's write sets a parameter: never an OUT, CTRL or a history register (R145). -/
theorem inputsKept_writeDest (h : InputsKept s t) (d a : Word) : InputsKept s (t.writeDest d a) := by
  rcases writeDest_cases t d a with e | ⟨n, f, e, hf⟩ | ⟨c, f, e, hf⟩ | ⟨k, f, e, -⟩ <;> rw [e]
  · exact h
  · refine inputsKept_modifyOsc h n fun hout => ?_
    rcases hf with rfl | rfl | rfl <;> exact hout
  · refine inputsKept_modifyCh h c fun ch => ?_
    rcases hf with ⟨_, rfl⟩ | rfl | rfl | rfl | rfl | rfl | rfl | rfl | rfl | rfl | rfl | rfl <;> rfl
  · exact inputsKept_modifyIp h k f

/-- An interpolator's sat32 meets a value between MIN and MAX, so it leaves STATUS.SAT (R144). -/
theorem inputsKept_runInterp (h : InputsKept s t) (k : Fin Config.nip) : InputsKept s (t.runInterp k) := by
  have hdrawn := inputsKept_drawSource h t.ip[k].src
  have hmap : saturates ((t.drawSource t.ip[k].src).ip[k].mapRaw
      ((t.drawSource t.ip[k].src).oscOut t.ip[k].src)) = false := by
    obtain ⟨hlo, hhi⟩ := oscOut_range hdrawn.outs t.ip[k].src
    exact mapRaw_not_saturates _ hlo hhi
  have hout := fun f => inputsKept_modifyIp hdrawn k f
  simp only [State.runInterp, hmap, noteSat_false]
  split
  · exact hout _
  · exact inputsKept_writeDest (hout _) _ _

theorem inputsKept_runInterpIf (h : InputsKept s t) (k : Fin Config.nip) :
    InputsKept s (t.runInterpIf k) := by
  unfold State.runInterpIf
  split
  · exact inputsKept_runInterp h k
  · exact h

/-- The state on which stage 4 of a frame begins (R165 to R167). -/
def State.inputsReady (s : State) : State := s.stageLfos.stageInterps.stageOscs

theorem inputsKept_stageLfos (h : InputsKept s t) : InputsKept s t.stageLfos := by
  unfold State.stageLfos
  exact forUnits_keeps (InputsKept s) (fun n _ hu => inputsKept_fireIf hu modeLfoOnce n) h

theorem inputsKept_stageInterps (h : InputsKept s t) : InputsKept s t.stageInterps := by
  unfold State.stageInterps
  exact forUnits_keeps (InputsKept s) (fun k _ hu => inputsKept_runInterpIf hu k) h

theorem inputsKept_stageOscs (h : InputsKept s t) : InputsKept s t.stageOscs := by
  unfold State.stageOscs
  exact forUnits_keeps (InputsKept s) (fun n _ hu => inputsKept_fireIf hu modeAudio n) h

theorem inputsKept_inputsReady (h : Inv s) : InputsKept s s.inputsReady :=
  inputsKept_stageOscs (inputsKept_stageInterps (inputsKept_stageLfos (inputsKept_refl h)))

/-! ### Stage 4: the channels -/

/-- What a channel's turn can do: RunChannel where it is enabled, else nothing. -/
theorem runChannelIf_cases (s : State) (c : Fin Config.nch) :
    (s.ch[c].en = true ∧ s.runChannelIf c = s.runChannel c) ∨
      (¬s.ch[c].en = true ∧ s.runChannelIf c = s) := by
  by_cases h : s.ch[c].en = true
  · exact .inl ⟨h, if_pos h⟩
  · exact .inr ⟨h, if_neg h⟩

/-- What a frame makes of a channel, on the oscillators' outputs (R122, R168). -/
def Channel.afterFrame (c : Channel) (outs : Word → Int) : Channel :=
  if c.en then c.store (c.compute outs) else c

/-- A channel's turn leaves every oscillator's OUT. -/
@[simp] theorem runChannelIf_oscOut (s : State) (c : Fin Config.nch) :
    (s.runChannelIf c).oscOut = s.oscOut := by
  rcases runChannelIf_cases s c with ⟨-, e⟩ | ⟨-, e⟩
  · rw [e, runChannel_eq]; rfl
  · rw [e]

theorem runChannelIf_ch_other (s : State) {c d : Fin Config.nch} (h : d ≠ c) :
    (s.runChannelIf c).ch[d] = s.ch[d] := by
  rcases runChannelIf_cases s c with ⟨-, e⟩ | ⟨-, e⟩
  · simp only [e, State.runChannel, noteSat_ch]; exact modifyCh_ch_other _ _ h
  · simp only [e]

theorem runChannelIf_ch_same (s : State) (c : Fin Config.nch) :
    (s.runChannelIf c).ch[c] = s.ch[c].afterFrame s.oscOut := by
  rcases runChannelIf_cases s c with ⟨h, e⟩ | ⟨h, e⟩
  · rw [Channel.afterFrame, if_pos h]
    simp only [e, State.runChannel, noteSat_ch]; exact modifyCh_ch_same _ _ _
  · rw [Channel.afterFrame, if_neg h]; simp only [e]

theorem runChannelIf_satFlag_iff (s : State) (c : Fin Config.nch) :
    (s.runChannelIf c).satFlag = true ↔
      s.satFlag = true ∨ (s.ch[c].en = true ∧ (s.ch[c].compute s.oscOut).saturated = true) := by
  rcases runChannelIf_cases s c with ⟨h, e⟩ | ⟨h, e⟩
  · have hsat : (s.runChannel c).satFlag = (s.satFlag || (s.ch[c].compute s.oscOut).saturated) :=
      noteSat_satFlag _ _
    rw [e, hsat, Bool.or_eq_true]
    exact or_congr_right (and_iff_right h).symm
  · rw [e]
    exact (or_iff_left fun hc => h hc.1).symm

@[simp] theorem stageChannels_oscOut (s : State) : s.stageChannels.oscOut = s.oscOut :=
  forUnits_preserves State.oscOut (fun c t => runChannelIf_oscOut t c) s

/-- Stage 4 in full, channel by channel: each sees the same oscillators and its own registers. -/
theorem stageChannels_ch (s : State) (c : Fin Config.nch) :
    s.stageChannels.ch[c] = s.ch[c].afterFrame s.oscOut :=
  congrArg Prod.fst <|
    forUnits_once (fun t => (t.ch[c], t.oscOut)) c
      (fun d t h => by simp only [runChannelIf_ch_other t (Ne.symm h), runChannelIf_oscOut])
      (fun p => (p.1.afterFrame p.2, p.2))
      (fun t => by simp only [runChannelIf_ch_same, runChannelIf_oscOut]) s

/-- Stage 4 sets STATUS.SAT where an enabled channel saturates. -/
theorem stageChannels_satFlag_iff (s : State) :
    s.stageChannels.satFlag = true ↔
      s.satFlag = true ∨
        ∃ c : Fin Config.nch, s.ch[c].en = true ∧ (s.ch[c].compute s.oscOut).saturated = true :=
  forUnits_sets_iff (·.satFlag = true)
    (fun c t => t.ch[c].en = true ∧ (t.ch[c].compute t.oscOut).saturated = true)
    (fun c t => runChannelIf_satFlag_iff t c)
    (fun c d t h => by simp only [runChannelIf_ch_other t h, runChannelIf_oscOut]) s

theorem clipped_range (c : Channel) {v : Int} (h : -0x80000000 ≤ v ∧ v ≤ 0x7FFFFFFF) :
    -0x80000000 ≤ c.clipped v ∧ c.clipped v ≤ 0x7FFFFFFF := by
  unfold Channel.clipped
  split
  · exact fx_range _
  · exact h

/-- A bypassed filter hands on the clipped input, which is in FX range (R126). -/
theorem saturates_clipped_sat32 (c : Channel) (v : Int) : saturates (c.clipped (sat32 v)) = false := by
  have h := clipped_range c (sat32_range v)
  rw [← Bool.not_eq_true, saturates_iff_outsideFx, outsideFx]
  omega

/-- Some sat32 of a channel's frame changes its argument: of the tap sum, the running filter, the crossfade
or the gain (R123, R125, R127), on the parameters of `c`, the filter history of `old` and the oscillators'
outputs. -/
def Channel.saturatesOn (c old : Channel) (outs : Word → Int) : Prop :=
  ∃ taps x filt y mix : Int,
    taps = (fx c.offset * 2 ^ 24 +
      ∑ j : Fin 4, if c.tapSrc[j] = 0xFF then 0 else fx c.tapGain[j] * outs c.tapSrc[j]) / 2 ^ 24 ∧
    x = (if c.clipEn = true ∧ fx c.clip < sat32 taps then fx c.clip else sat32 taps) ∧
    filt = (fx c.b0 * x + fx c.b1 * fx old.x1 + fx c.b2 * fx old.x2 - fx c.a1 * fx old.y1 -
      fx c.a2 * fx old.y2) / 2 ^ 24 ∧
    y = (if c.filtEn then sat32 filt else x) ∧
    mix = (fx c.dry * x + fx c.wet * y) / 2 ^ 24 ∧
    (outsideFx taps ∨ (c.filtEn = true ∧ outsideFx filt) ∨ outsideFx mix ∨
      outsideFx (fx c.gain * sat32 mix / 2 ^ 24))

/-- The tap sum of R123 as the statements write it. -/
theorem tapAcc_eq_sum (c : Channel) (outs : Word → Int) :
    c.tapAcc outs = fx c.offset * 2 ^ 24 +
      ∑ j : Fin 4, if c.tapSrc[j] = 0xFF then 0 else fx c.tapGain[j] * outs c.tapSrc[j] := by
  simp only [Channel.tapAcc, Channel.tapTerm, Fin.sum_univ_four, add_assoc]

theorem clipped_eq (c : Channel) (v : Int) :
    c.clipped v = if c.clipEn = true ∧ fx c.clip < v then fx c.clip else v := by
  simp only [Channel.clipped, Bool.and_eq_true, decide_eq_true_eq]

/-- The machine's record of a channel's saturations is `saturatesOn`, on the channel's own history. -/
theorem compute_saturated_iff (c : Channel) (outs : Word → Int) :
    (c.compute outs).saturated = true ↔ c.saturatesOn c outs := by
  simp only [Channel.saturatesOn, exists_and_left, exists_eq_left, ← tapAcc_eq_sum, ← clipped_eq]
  simp only [ChannelFrame.saturated, Channel.compute, Channel.biquadAcc, Channel.crossfadeAcc, fxProduct,
    asr_twentyFour, Bool.or_eq_true, saturates_iff_outsideFx, or_assoc]
  cases c.filtEn with
  | true => simp only [if_true, true_and]
  | false =>
    have hbypass := saturates_clipped_sat32 c (c.tapAcc outs / 2 ^ 24)
    have hx : ¬outsideFx (c.clipped (sat32 (c.tapAcc outs / 2 ^ 24))) := by
      rw [← saturates_iff_outsideFx, hbypass]; decide
    have hy := (sat32_eq_iff _).2 hbypass
    simp only [Bool.false_eq_true, if_false, hx, hy, false_and, false_or]

/-- A frame leaves the parameters that its own saturations are read from. -/
theorem afterFrame_saturatesOn_iff (c old : Channel) (outs outs' : Word → Int) :
    (c.afterFrame outs').saturatesOn old outs ↔ c.saturatesOn old outs := by
  unfold Channel.afterFrame
  split
  · rw [channel_store_eq]; rfl
  · rfl

/-- Of `old` the saturations are read from the filter history alone. -/
theorem saturatesOn_congr_history {c old old' : Channel} (h : old.undriven = old'.undriven)
    (outs : Word → Int) : c.saturatesOn old outs ↔ c.saturatesOn old' outs := by
  simp only [Channel.undriven, Prod.mk.injEq] at h
  obtain ⟨-, hx1, hx2, hy1, hy2⟩ := h
  simp only [Channel.saturatesOn, hx1, hx2, hy1, hy2]

/-! ### Stage 5: the mix and the master gain -/

@[simp] theorem advanceRamp_osc (s : State) : s.advanceRamp.osc = s.osc := by
  rcases advanceRamp_cases s with ⟨-, e⟩ | ⟨-, e⟩ | ⟨-, e⟩ <;> rw [e]

@[simp] theorem advanceRamp_ch (s : State) : s.advanceRamp.ch = s.ch := by
  rcases advanceRamp_cases s with ⟨-, e⟩ | ⟨-, e⟩ | ⟨-, e⟩ <;> rw [e]

@[simp] theorem advanceRamp_satFlag (s : State) : s.advanceRamp.satFlag = s.satFlag := by
  rcases advanceRamp_cases s with ⟨-, e⟩ | ⟨-, e⟩ | ⟨-, e⟩ <;> rw [e] <;> rfl

@[simp] theorem stageOutput_osc (s : State) (i : Nat) : (s.stageOutput i).osc = s.osc := by
  simp [State.stageOutput]

@[simp] theorem stageOutput_oscOut (s : State) (i : Nat) : (s.stageOutput i).oscOut = s.oscOut := by
  funext w
  simp only [State.oscOut, stageOutput_osc]

@[simp] theorem stageOutput_ch (s : State) (i : Nat) : (s.stageOutput i).ch = s.ch := by
  simp [State.stageOutput]

@[simp] theorem stageOutput_rampCur (s : State) (i : Nat) :
    (s.stageOutput i).rampCur = s.advanceRamp.rampCur := by
  simp [State.stageOutput]

/-- A side's sum (R155) as a sum over all channels. -/
theorem mixSum_eq_sum (s : State) (gain : Channel → Int) :
    s.mixSum gain = ∑ c : Fin 16, if s.ch[c].en then fx s.ch[c].out * gain s.ch[c] else 0 := by
  rw [Fin.sum_univ_def, List.sum_eq_foldl, List.foldl_map, State.mixSum]
  congr 1
  funext acc c
  split <;> simp

/-- One of a side's two sat32s, of the mix or of the master gain, changes its argument (R155, R159). -/
def State.sideSaturates (s : State) (ramp : Word) (gain : Channel → Int) : Prop :=
  outsideFx (s.mixRaw gain) ∨ outsideFx (sat32 (s.mixRaw gain) * fx ramp / 2 ^ 24)

/-- Stage 5 sets STATUS.SAT where a side saturates. -/
theorem stageOutput_satFlag_iff (s : State) (i : Nat) :
    (s.stageOutput i).satFlag = true ↔
      s.satFlag = true ∨
        ∃ gain ∈ [Channel.panLeft, Channel.panRight], s.sideSaturates s.advanceRamp.rampCur gain := by
  have hflag : (s.stageOutput i).satFlag = (s.advanceRamp.satFlag ||
      (saturates (s.mixRaw Channel.panLeft) || saturates (s.mixRaw Channel.panRight) ||
        saturates (s.advanceRamp.sideRaw (s.mixRaw Channel.panLeft)) ||
        saturates (s.advanceRamp.sideRaw (s.mixRaw Channel.panRight)))) := by
    rw [← noteSat_satFlag]
    exact congrArg (fun w : Word => w.getLsbD 9) (writeFrame_status _ _ _ _)
  simp only [hflag, advanceRamp_satFlag, Bool.or_eq_true, saturates_iff_outsideFx, State.sideRaw,
    fxProduct, asr_twentyFour, State.sideSaturates, List.mem_cons, List.not_mem_nil, or_false,
    exists_eq_or_imp, exists_eq_left]
  refine or_congr_right ?_
  rw [or_assoc (a := _ ∨ _), or_or_or_comm]

/-! ### The frame -/

theorem outAt_eq_oscOut (s : State) : s.outAt = s.oscOut := by
  funext i
  unfold State.outAt State.oscOut
  split <;> simp [*]

/-- RENDER of one frame, where MAX_BLOCK allows it. -/
theorem exec_render_one (hmax : 1 ≤ s.maxBlock.toNat) (harg : s.cmdArg = 1) :
    exec .render s = .next (s.renderFrame 0) := by
  have hlegal : renderLegal s.cmdArg s.maxBlock = true := by
    rw [harg]; exact decide_eq_true hmax
  have hblock : s.renderBlock s.cmdArg.toNat = s.renderFrame 0 := by rw [harg]; rfl
  change withArg (renderLegal s.cmdArg s.maxBlock) (encode .render) s (s.renderBlock s.cmdArg.toNat) = _
  rw [hlegal, hblock]
  rfl

theorem renderFrame_eq (s : State) (i : Nat) :
    s.renderFrame i = s.inputsReady.stageChannels.stageOutput i := rfl

theorem renderFrame_oscOut (s : State) (i : Nat) : (s.renderFrame i).oscOut = s.inputsReady.oscOut := by
  rw [renderFrame_eq, stageOutput_oscOut, stageChannels_oscOut]

theorem renderFrame_ch (s : State) (i : Nat) (c : Fin Config.nch) :
    (s.renderFrame i).ch[c] = s.inputsReady.ch[c].afterFrame s.inputsReady.oscOut := by
  simp only [← stageChannels_ch, renderFrame_eq, stageOutput_ch]

/-- After a frame STATUS.SAT is set where it was set before, where an enabled channel saturated, or where a
side did. -/
theorem renderFrame_satFlag_iff (h : Inv s) (i : Nat) :
    (s.renderFrame i).satFlag = true ↔
      s.satFlag = true ∨
      (∃ c : Fin Config.nch, s.ch[c].en = true ∧
        (s.renderFrame i).ch[c].saturatesOn s.ch[c] (s.renderFrame i).oscOut) ∨
      ∃ gain ∈ [Channel.panLeft, Channel.panRight],
        (s.renderFrame i).sideSaturates (s.renderFrame i).rampCur gain := by
  have kept := inputsKept_inputsReady h
  have channels (c : Fin Config.nch) :
      s.inputsReady.ch[c].en = true ∧
          (s.inputsReady.ch[c].compute s.inputsReady.oscOut).saturated = true ↔
        s.ch[c].en = true ∧ (s.renderFrame i).ch[c].saturatesOn s.ch[c] (s.renderFrame i).oscOut := by
    have hctrl : s.inputsReady.ch[c].ctrl = s.ch[c].ctrl := congrArg Prod.fst (kept.undriven c)
    rw [renderFrame_ch, renderFrame_oscOut, afterFrame_saturatesOn_iff, compute_saturated_iff,
      saturatesOn_congr_history (kept.undriven c), Channel.en, Channel.en, hctrl]
  have sides (gain : Channel → Int) :
      s.inputsReady.stageChannels.sideSaturates s.inputsReady.stageChannels.advanceRamp.rampCur gain ↔
        (s.renderFrame i).sideSaturates (s.renderFrame i).rampCur gain := by
    simp only [renderFrame_eq, State.sideSaturates, State.mixRaw, State.mixSum, stageOutput_ch,
      stageOutput_rampCur]
  rw [renderFrame_eq, stageOutput_satFlag_iff, ← renderFrame_eq, stageChannels_satFlag_iff, kept.sat,
    or_assoc]
  simp only [channels, sides]

end Sys2Proof.Machine

open Sys2Proof Sys2Proof.Machine

/-- Settles O60: the frame's record of saturation, with the channels and the sides read from the state the
frame leaves. -/
theorem frameRecordsSaturation : Obligations.FrameRecordsSaturation := by
  intro s h harg
  refine ⟨s.renderFrame 0, exec_render_one h.maxBlock.1 harg, ?_⟩
  rw [renderFrame_satFlag_iff h 0]
  simp only [State.sideSaturates, State.mixRaw, asr_twentyFour, mixSum_eq_sum, outAt_eq_oscOut,
    Channel.saturatesOn, exists_eq_left]
end

section
/-! PROOF. What stands at each offset of the window (R67, R68; O14): the registers by group, OUTBUF, and the
reserved offsets, which read 0. -/

namespace Sys2Proof.Machine

variable (s : State)

/-! ### A group's registers, read together -/

theorem map_readWord_global {as : List Nat} (h : ∀ a ∈ as, a < 0x1000) :
    as.map s.readWord = as.map s.readGlobal :=
  List.map_congr_left fun a ha => readWord_global s (h a ha)

theorem map_readWord_osc (n : Fin Config.nosc) {ks : List Nat} (h : ∀ k ∈ ks, k < 0x20) :
    ks.map (fun k => s.readWord (oscOffset n k)) = ks.map s.osc[n].read :=
  List.map_congr_left fun k hk => readWord_osc s n (h k hk)

theorem map_readWord_ch (c : Fin Config.nch) {ks : List Nat} (h : ∀ k ∈ ks, k < 0x80) :
    ks.map (fun k => s.readWord (chOffset c k)) = ks.map s.ch[c].read :=
  List.map_congr_left fun k hk => readWord_ch s c (h k hk)

theorem map_readWord_ip (i : Fin Config.nip) {ks : List Nat} (h : ∀ k ∈ ks, k < 0x20) :
    ks.map (fun k => s.readWord (ipOffset i k)) = ks.map s.ip[i].read :=
  List.map_congr_left fun k hk => readWord_ip s i (h k hk)

/-! ### Reserved offsets (R68) -/

theorem readGlobal_reserved {a : Nat} (h : 0x50 ≤ a) : s.readGlobal a = 0 := by
  unfold State.readGlobal
  split <;> try omega
  rfl

theorem channel_read_reserved (c : Channel) {k : Nat} (h : 0x64 ≤ k) : c.read k = 0 := by
  unfold Channel.read
  split <;> try omega
  rfl

theorem interp_read_reserved (i : Interp) {k : Nat} (h : 0x18 ≤ k) : i.read k = 0 := by
  unfold Interp.read
  split <;> try omega
  rfl

/-- A reserved offset is past the globals, in the tail of a channel's or an interpolator's group, or
outside every group. -/
theorem readWord_reserved {a : Nat} (h : reservedOffset a) : s.readWord a = 0 := by
  unfold reservedOffset at h
  rcases readWord_cases a with hg | ⟨n, k, hk, rfl⟩ | ⟨c, k, hk, rfl⟩ | ⟨i, k, hk, rfl⟩ | hb | hz
  · rw [readWord_global s hg]
    exact readGlobal_reserved s (by omega)
  · have hn : n.val < 32 := n.isLt
    omega
  · have hc : c.val < 16 := c.isLt
    rw [readWord_ch s c hk]
    exact channel_read_reserved _ (by omega)
  · have hi : i.val < 16 := i.isLt
    rw [readWord_ip s i hk]
    exact interp_read_reserved _ (by omega)
  · omega
  · exact hz s

end Sys2Proof.Machine

open Sys2Proof Sys2Proof.Machine

/-- Settles O14, group by group: each group's list of offsets is read through the group's own table. -/
theorem windowHoldsRegisters : Obligations.WindowHoldsRegisters := by
  intro s
  refine ⟨?globals, fun n => ?osc, fun c => ?ch, fun k => ?ip, fun i hi => ⟨?left, ?right⟩,
    fun a => readWord_reserved s⟩
  case globals => rw [map_readWord_global s (by decide)]; rfl
  case osc => exact map_readWord_osc s n (by decide)
  case ch => exact map_readWord_ch s c (by decide)
  case ip => exact map_readWord_ip s k (by decide)
  case left => exact readWord_outbuf s (by omega) (by omega)
  case right => exact readWord_outbuf s (by omega) (by omega)
end

section
/-! PROOF. What each command can do to the state, said once as one inversion lemma (`exec_effect`). -/

namespace Sys2Proof.Machine

variable {s t : State}

/-! ### What a change of one unit leaves, read through any view of the unit -/

theorem modifyOsc_osc_view (s : State) {α : Type} (view : Osc → α) {f : Osc → Osc}
    (hf : ∀ o, view (f o) = view o) (n m : Fin Config.nosc) :
    view (s.modifyOsc n f).osc[m] = view s.osc[m] := by
  by_cases hm : m = n
  · subst hm; rw [modifyOsc_osc_same, hf]
  · rw [modifyOsc_osc_other _ _ hm]

theorem modifyCh_ch_view (s : State) {α : Type} (view : Channel → α) {f : Channel → Channel}
    (hf : ∀ c, view (f c) = view c) (c d : Fin Config.nch) :
    view (s.modifyCh c f).ch[d] = view s.ch[d] := by
  by_cases hd : d = c
  · subst hd; rw [modifyCh_ch_same, hf]
  · rw [modifyCh_ch_other _ _ hd]

/-- FREQ and PINC: the oscillator registers that only a frequency or a sample rate sets (R43, R44). -/
def Osc.pitch (o : Osc) : Word × Word := (o.freq, o.pinc)

/-- The filter history (R56). -/
def Channel.history (c : Channel) : Word × Word × Word × Word := (c.x1, c.x2, c.y1, c.y2)

theorem osc_fired_pitch (o : Osc) : o.fired.pitch = o.pitch := by rw [osc_fired_eq]; rfl

/-! ### Sticky flags (R31, R65, R184) -/

/-- From `s` to `t` no flag is cleared, and a recorded error keeps its record. -/
structure FlagsKept (s t : State) : Prop where
  range : s.rangeFlag = true → t.rangeFlag = true
  sat : s.satFlag = true → t.satFlag = true
  record : s.err = true →
    t.err = true ∧ t.errCode = s.errCode ∧ t.errInfo = s.errInfo ∧ t.errArg = s.errArg

theorem flagsKept_refl (s : State) : FlagsKept s s := ⟨id, id, fun h => ⟨h, rfl, rfl, rfl⟩⟩

/-- The flags are those of STATUS, and the record is ERRCODE, ERRINFO and ERRARG. -/
theorem flagsKept_congr {u : State} (h : FlagsKept s t) (hs : u.status = t.status)
    (hi : u.errInfo = t.errInfo) (ha : u.errArg = t.errArg) : FlagsKept s u := by
  obtain ⟨hrange, hsat, hrecord⟩ := h
  constructor
  · simpa only [State.rangeFlag, hs] using hrange
  · simpa only [State.satFlag, hs] using hsat
  · simpa only [State.err, State.errCode, hs, hi, ha] using hrecord

/-- Setting RANGE or SAT clears no flag and leaves ERR and ERRCODE. -/
theorem flagsKept_flagged (h : FlagsKept s t) {mask : Word} (hm : mask = 0x100 ∨ mask = 0x200) (b : Bool) :
    FlagsKept s { t with status := flagged t.status mask b } := by
  have herr : (flagged t.status mask b).getLsbD 0 = t.status.getLsbD 0 := by
    rcases hm with rfl | rfl <;> cases b <;> simp [flagged]
  have hcode : (flagged t.status mask b).extractLsb' 4 4 = t.status.extractLsb' 4 4 := by
    rcases hm with rfl | rfl <;> cases b <;> simp [flagged, BitVec.extractLsb'_or]
  have hset (j : Nat) (hj : t.status.getLsbD j = true) : (flagged t.status mask b).getLsbD j = true := by
    cases b <;> simp [flagged, hj]
  refine ⟨fun hr => hset 8 (h.range hr), fun hs => hset 9 (h.sat hs), fun he => ?_⟩
  simpa only [State.err, State.errCode, herr, hcode] using h.record he

theorem flagsKept_noteRange (h : FlagsKept s t) (b : Bool) : FlagsKept s (t.noteRange b) := by
  rw [noteRange_flagged]; exact flagsKept_flagged h (.inl rfl) b

theorem flagsKept_noteSat (h : FlagsKept s t) (b : Bool) : FlagsKept s (t.noteSat b) := by
  rw [noteSat_flagged]; exact flagsKept_flagged h (.inr rfl) b

/-- A first failure writes ERR and ERRCODE alone, where no error is recorded (R181). -/
theorem flagsKept_failed (he : s.err = false) (e : CmdErr) (info arg : Word) :
    FlagsKept s { s with status := failedStatus s.status e, errInfo := info, errArg := arg } := by
  have above (j : Nat) (hj : 8 ≤ j) : (failedStatus s.status e).getLsbD j = s.status.getLsbD j := by
    rw [failedStatus, getLsbD_setBits, if_neg (by omega), getLsbD_setBits, if_neg (by omega)]
  refine ⟨(above 8 le_rfl).trans, (above 9 (by decide)).trans, fun h => ?_⟩
  rw [he] at h
  exact absurd h (by decide)

/-! ### What RENDER can change -/

/-- `t` is `s` after some of a RENDER's work: of the globals only STATUS, FRAME_COUNT, RAMP_CUR, RAMP_CNT,
LAST_L and LAST_R differ, no flag is cleared, no oscillator's FREQ or PINC differs, and RAMP_CNT has not
risen. -/
structure Rendered (s t : State) : Prop where
  globals :
    { t with
      status := s.status, frameCount := s.frameCount, rampCur := s.rampCur, rampCnt := s.rampCnt
      lastL := s.lastL, lastR := s.lastR, osc := s.osc, ch := s.ch, ip := s.ip, outbuf := s.outbuf } = s
  flags : FlagsKept s t
  pitch : ∀ n : Fin Config.nosc, t.osc[n].pitch = s.osc[n].pitch
  rampCnt : t.rampCnt.toNat ≤ s.rampCnt.toNat

theorem rendered_refl (s : State) : Rendered s s := ⟨rfl, flagsKept_refl s, fun _ => rfl, le_rfl⟩

theorem rendered_modifyOsc (h : Rendered s t) (n : Fin Config.nosc) {f : Osc → Osc}
    (hf : ∀ o, (f o).pitch = o.pitch) : Rendered s (t.modifyOsc n f) where
  globals := h.globals
  flags := flagsKept_congr h.flags rfl rfl rfl
  pitch m := (modifyOsc_osc_view t Osc.pitch hf n m).trans (h.pitch m)
  rampCnt := h.rampCnt

theorem rendered_modifyCh (h : Rendered s t) (c : Fin Config.nch) (f : Channel → Channel) :
    Rendered s (t.modifyCh c f) :=
  ⟨h.globals, flagsKept_congr h.flags rfl rfl rfl, h.pitch, h.rampCnt⟩

theorem rendered_modifyIp (h : Rendered s t) (k : Fin Config.nip) (f : Interp → Interp) :
    Rendered s (t.modifyIp k f) :=
  ⟨h.globals, flagsKept_congr h.flags rfl rfl rfl, h.pitch, h.rampCnt⟩

theorem rendered_noteRange (h : Rendered s t) (b : Bool) : Rendered s (t.noteRange b) := by
  have hflags := flagsKept_noteRange h.flags b
  rw [noteRange_eq] at hflags ⊢
  exact ⟨h.globals, hflags, h.pitch, h.rampCnt⟩

theorem rendered_noteSat (h : Rendered s t) (b : Bool) : Rendered s (t.noteSat b) := by
  have hflags := flagsKept_noteSat h.flags b
  rw [noteSat_eq] at hflags ⊢
  exact ⟨h.globals, hflags, h.pitch, h.rampCnt⟩

/-! #### Stages 1 to 4 -/

theorem fire_eq_noteRange (s : State) (n : Fin Config.nosc) :
    s.fire n = (s.modifyOsc n Osc.fired).noteRange (outOfRange32 s.osc[n].increment) := by
  rw [fire_eq, noteRange_flagged]; rfl

theorem rendered_fire (h : Rendered s t) (n : Fin Config.nosc) : Rendered s (t.fire n) := by
  rw [fire_eq_noteRange]
  exact rendered_noteRange (rendered_modifyOsc h n osc_fired_pitch) _

theorem rendered_fireIf (h : Rendered s t) (mode : BitVec 2) (n : Fin Config.nosc) :
    Rendered s (t.fireIf mode n) := by
  rcases fireIf_cases t mode n with ⟨-, -, e⟩ | ⟨-, e⟩ <;> rw [e]
  · exact rendered_fire h n
  · exact h

theorem rendered_drawSource (h : Rendered s t) (src : Word) : Rendered s (t.drawSource src) := by
  rcases drawSource_cases t src with e | ⟨hn, -, -, e⟩ <;> rw [e]
  · exact h
  · exact rendered_fire h _

/-- A destination's register is never FREQ or PINC (R145). -/
theorem rendered_writeDest (h : Rendered s t) (d a : Word) : Rendered s (t.writeDest d a) := by
  rcases writeDest_cases t d a with e | ⟨n, f, e, hf⟩ | ⟨c, f, e, -⟩ | ⟨k, f, e, -⟩ <;> rw [e]
  · exact h
  · refine rendered_modifyOsc h n fun o => ?_
    rcases hf with rfl | rfl | rfl <;> rfl
  · exact rendered_modifyCh h c f
  · exact rendered_modifyIp h k f

theorem rendered_runInterpIf (h : Rendered s t) (k : Fin Config.nip) : Rendered s (t.runInterpIf k) := by
  unfold State.runInterpIf State.runInterp
  dsimp only
  split_ifs
  · exact rendered_noteSat (rendered_modifyIp (rendered_drawSource h _) k _) _
  · exact rendered_writeDest (rendered_noteSat (rendered_modifyIp (rendered_drawSource h _) k _) _) _ _
  · exact h

theorem rendered_runChannelIf (h : Rendered s t) (c : Fin Config.nch) : Rendered s (t.runChannelIf c) := by
  rcases runChannelIf_cases t c with ⟨-, e⟩ | ⟨-, e⟩ <;> rw [e]
  · exact rendered_noteSat (rendered_modifyCh h c _) _
  · exact h

theorem rendered_inputsReady (h : Rendered s t) : Rendered s t.inputsReady := by
  unfold State.inputsReady State.stageOscs State.stageInterps State.stageLfos
  have hlfos := forUnits_keeps (Rendered s) (fun n _ hu => rendered_fireIf hu modeLfoOnce n) h
  have hinterps := forUnits_keeps (Rendered s) (fun k _ hu => rendered_runInterpIf hu k) hlfos
  exact forUnits_keeps (Rendered s) (fun n _ hu => rendered_fireIf hu modeAudio n) hinterps

theorem rendered_stageChannels (h : Rendered s t) : Rendered s t.stageChannels :=
  forUnits_keeps (Rendered s) (fun c _ hu => rendered_runChannelIf hu c) h

/-! #### Stages 5 and 6, and the block -/

/-- A frame's ramp advance moves RAMP_CUR and counts RAMP_CNT down (R158). -/
theorem rendered_advanceRamp (h : Rendered s t) : Rendered s t.advanceRamp := by
  have counted : 1 ≤ t.rampCnt.toNat → (t.rampCnt - 1).toNat ≤ s.rampCnt.toNat := fun h1 => by
    have hsub : (t.rampCnt - 1).toNat = t.rampCnt.toNat - 1 :=
      BitVec.toNat_sub_of_le (by rw [BitVec.le_def]; exact h1)
    exact hsub.trans_le (le_trans (Nat.sub_le _ _) h.rampCnt)
  have flags {cur cnt : Word} : FlagsKept s { t with rampCur := cur, rampCnt := cnt } :=
    flagsKept_congr h.flags rfl rfl rfl
  rcases advanceRamp_cases t with ⟨-, e⟩ | ⟨h1, e⟩ | ⟨h1, e⟩ <;> rw [e]
  · exact h
  · exact ⟨h.globals, flags, h.pitch, counted (by omega)⟩
  · exact ⟨h.globals, flags, h.pitch, counted (by omega)⟩

/-- What stage 6 writes, beside STATUS.SAT: OUTBUF, LAST_L, LAST_R and FRAME_COUNT (R170). -/
theorem rendered_writeFrame (h : Rendered s t) (i : Nat) (l r last last' count : Word) :
    Rendered s { t.writeFrame i l r with lastL := last, lastR := last', frameCount := count } := by
  have hflags :
      FlagsKept s { t.writeFrame i l r with lastL := last, lastR := last', frameCount := count } :=
    flagsKept_congr h.flags (writeFrame_status t i l r) (writeFrame_errInfo t i l r)
      (writeFrame_errArg t i l r)
  unfold State.writeFrame at hflags ⊢
  split_ifs at hflags ⊢ <;> exact ⟨h.globals, hflags, h.pitch, h.rampCnt⟩

theorem rendered_stageOutput (h : Rendered s t) (i : Nat) : Rendered s (t.stageOutput i) :=
  rendered_writeFrame (rendered_noteSat (rendered_advanceRamp h) _) i _ _ _ _ _

theorem rendered_renderBlock (s : State) (n : Nat) : Rendered s (s.renderBlock n) :=
  renderFrom_keeps s (Rendered s)
    (fun _ i h => rendered_stageOutput (rendered_stageChannels (rendered_inputsReady h)) i)
    0 n (rendered_refl s)

/-! ### The state that a command leaves -/

/-- What command `i` can leave of state `s`: one form for each kind of command, every field that it may
write given and every other as in `s`. A command that fails where an error stands (R182) changes nothing;
where none stands it writes the record (R181). -/
inductive Effect (s : State) : Instr → State → Prop
  | unchanged (i : Instr) : Effect s i s
  | failed (i : Instr) (e : CmdErr) (he : s.err = false) :
      Effect s i
        { s with status := failedStatus s.status e, errInfo := encode i, errArg := s.cmdArg }
  | setSampleRate {osc : Vector Osc Config.nosc} {status len : Word}
      (hfreq : ∀ n : Fin Config.nosc, osc[n].freq = s.osc[n].freq)
      (hflags : FlagsKept s { s with status := status }) :
      Effect s .setSampleRate
        { s with sampleRate := s.cmdArg, rampLen := len, osc := osc, status := status }
  | setMaxBlock : Effect s .setMaxBlock { s with maxBlock := s.cmdArg }
  | render {status frames cur cnt left right : Word} {osc : Vector Osc Config.nosc}
      {ch : Vector Channel Config.nch} {ip : Vector Interp Config.nip} {outbuf : Memory}
      (hflags : FlagsKept s { s with status := status })
      (hpitch : ∀ n : Fin Config.nosc, osc[n].pitch = s.osc[n].pitch)
      (hcnt : cnt.toNat ≤ s.rampCnt.toNat) :
      Effect s .render
        { s with
          status := status, frameCount := frames, rampCur := cur, rampCnt := cnt, lastL := left
          lastR := right, osc := osc, ch := ch, ip := ip, outbuf := outbuf }
  | reset : Effect s .reset s.resetCommand
  | clearStatus (status info arg : Word) :
      Effect s .clearStatus { s with status := status, errInfo := info, errArg := arg }
  | rampSetTarget (cur step : Word) :
      Effect s .rampSetTarget
        { s with rampTarget := s.cmdArg, rampCnt := s.rampLen, rampCur := cur, rampStep := step }
  | rampSetTime (len : Word) : Effect s .rampSetTime { s with rampTime := s.cmdArg, rampLen := len }
  | rampSetValue :
      Effect s .rampSetValue
        { s with rampCur := s.cmdArg, rampTarget := s.cmdArg, rampCnt := 0, rampStep := 0 }
  | oscSetFreq (unit : Byte) (n : Fin Config.nosc) (hn : n.val = unit.toNat) (f : Osc → Osc) (b : Bool) :
      Effect s (.oscSetFreq unit) { s.modifyOsc n f with status := flagged s.status 0x100 b }
  | osc {i : Instr} (hi : i.cls = .O) (n : Fin Config.nosc) (f : Osc → Osc)
      (hf : ∀ o, (f o).pitch = o.pitch) (b : Bool) :
      Effect s i { s.modifyOsc n f with status := flagged s.status 0x100 b }
  | chClearHist (unit : Byte) (c : Fin Config.nch) (hc : c.val = unit.toNat) (f : Channel → Channel) :
      Effect s (.chClearHist unit) (s.modifyCh c f)
  | ch {i : Instr} (hi : i.cls = .C) (c : Fin Config.nch) (f : Channel → Channel)
      (hf : ∀ x, (f x).history = x.history) : Effect s i (s.modifyCh c f)
  | ip {i : Instr} (hi : i.cls = .I) (k : Fin Config.nip) (f : Interp → Interp) :
      Effect s i (s.modifyIp k f)

/-! #### The meanings in the form of their effect -/

theorem cmdError_effect (s : State) (i : Instr) (e : CmdErr) : Effect s i (s.cmdError e (encode i)) := by
  rcases cmdError_cases s e (encode i) with ⟨-, h⟩ | ⟨he, h⟩ <;> rw [h]
  · exact .unchanged i
  · exact .failed i e he

theorem recompute_freq (s : State) (n m : Fin Config.nosc) :
    (s.recompute n).osc[m].freq = s.osc[m].freq := by
  simp only [State.recompute, noteRange_osc]
  exact modifyOsc_osc_view s Osc.freq (fun _ => by rfl) n m

/-- `t` is `s` with some PINCs recomputed (R100): the oscillators and STATUS alone differ, every FREQ is as
before, and no flag is cleared. -/
structure Recomputed (s t : State) : Prop where
  globals : { t with osc := s.osc, status := s.status } = s
  freq : ∀ n : Fin Config.nosc, t.osc[n].freq = s.osc[n].freq
  flags : FlagsKept s { s with status := t.status }

theorem recomputed_recompute (h : Recomputed s t) (n : Fin Config.nosc) : Recomputed s (t.recompute n) where
  globals := by rw [recompute_eq]; exact h.globals
  freq m := (recompute_freq t n m).trans (h.freq m)
  flags := by rw [recompute_eq]; exact flagsKept_flagged h.flags (.inl rfl) _

theorem recomputed_all (s : State) :
    Recomputed s (forUnits Config.nosc (fun n s => s.recompute n) s) :=
  forUnits_keeps (Recomputed s) (fun n _ h => recomputed_recompute h n)
    ⟨rfl, fun _ => rfl, flagsKept_refl s⟩

theorem recomputed_eq (h : Recomputed s t) : t = { s with osc := t.osc, status := t.status } := by
  conv_rhs => rw [← h.globals]

theorem recomputed_effect (h : Recomputed { s with sampleRate := s.cmdArg } t) (len : Word) :
    Effect s .setSampleRate { t with rampLen := len } := by
  rw [recomputed_eq h]
  exact .setSampleRate h.freq ⟨h.flags.range, h.flags.sat, h.flags.record⟩

/-- SET_SAMPLE_RATE recomputes every PINC at the new rate, and RAMP_LEN (R173). -/
theorem writeSampleRate_effect (s : State) : Effect s .setSampleRate (s.writeSampleRate s.cmdArg) :=
  recomputed_effect (recomputed_all _) _

theorem rendered_effect (h : Rendered s t) : Effect s .render t := by
  have ht : t = { s with
      status := t.status, frameCount := t.frameCount, rampCur := t.rampCur, rampCnt := t.rampCnt
      lastL := t.lastL, lastR := t.lastR, osc := t.osc, ch := t.ch, ip := t.ip, outbuf := t.outbuf } := by
    conv_rhs => rw [← h.globals]
  rw [ht]
  refine .render ⟨h.flags.range, h.flags.sat, fun he => ?_⟩ h.pitch h.rampCnt
  obtain ⟨herr, hcode, -, -⟩ := h.flags.record he
  exact ⟨herr, hcode, rfl, rfl⟩

theorem clearStatus_effect (s : State) (mask : Word) : Effect s .clearStatus (s.clearStatus mask) := by
  unfold State.clearStatus
  split_ifs <;> exact .clearStatus _ _ _

/-- RAMP_SET_TARGET in full but for RAMP_CUR and RAMP_STEP: RAMP_CNT takes RAMP_LEN, 0 included (R161). -/
theorem startRamp_eq (s : State) (target : Word) :
    s.startRamp target =
      { s with
        rampTarget := target
        rampCnt := s.rampLen
        rampCur := (s.startRamp target).rampCur
        rampStep := (s.startRamp target).rampStep } := by
  unfold State.startRamp
  split
  · next hlen =>
    have hzero : s.rampLen = 0 := BitVec.eq_of_toNat_eq hlen
    rw [hzero]
  · rfl

theorem startRamp_effect (s : State) : Effect s .rampSetTarget (s.startRamp s.cmdArg) := by
  rw [startRamp_eq]; exact .rampSetTarget _ _

theorem writeOscFreq_effect (s : State) {unit : Byte} {n : Fin Config.nosc} (hn : n.val = unit.toNat) :
    Effect s (.oscSetFreq unit) (s.writeOscFreq n s.cmdArg) := by
  have h : s.writeOscFreq n s.cmdArg =
      { s.modifyOsc n fun o =>
          { o with freq := s.cmdArg, pinc := mod32 (pincQuotient s.cmdArg s.sampleRate) } with
        status := flagged s.status 0x100 (outOfRange32 (pincQuotient s.cmdArg s.sampleRate)) } := by
    simp [State.writeOscFreq, recompute_eq, State.modifyOsc]
  rw [h]
  exact .oscSetFreq unit n hn _ _

theorem modifyOsc_effect (s : State) {i : Instr} (hi : i.cls = .O) (n : Fin Config.nosc) {f : Osc → Osc}
    (hf : ∀ o, (f o).pitch = o.pitch) : Effect s i (s.modifyOsc n f) := .osc hi n f hf false

theorem modifyCh_effect (s : State) {i : Instr} (hi : i.cls = .C) (c : Fin Config.nch)
    {f : Channel → Channel} (hf : ∀ x, (f x).history = x.history) : Effect s i (s.modifyCh c f) :=
  .ch hi c f hf

theorem advance_effect (s : State) {i : Instr} (hi : i.cls = .O) (n : Fin Config.nosc) :
    Effect s i (s.advance n) := by
  rw [advance_eq]; exact .osc hi n Osc.advance (fun _ => rfl) _

theorem tick_effect (s : State) {i : Instr} (hi : i.cls = .O) (n : Fin Config.nosc) :
    Effect s i ((s.advance n).evaluate n) := by
  have h : (s.advance n).evaluate n =
      { s.modifyOsc n (fun o => o.advance.evaluate) with
        status := flagged s.status 0x100 (outOfRange32 s.osc[n].increment) } := by
    simp [advance_eq, evaluate_eq, State.modifyOsc]
  rw [h]
  exact .osc hi n _ (fun _ => by rfl) _

/-! #### The checks of R86 keep the effect -/

/-- Every next state that the outcome can be satisfies `P`. -/
def Leaves (r : Result) (P : State → Prop) : Prop := ∀ t, r = .next t → P t

variable {P : State → Prop}

theorem leaves_next (h : P t) : Leaves (.next t) P := fun _ e => Host.Outcome.next.inj e ▸ h

theorem withArg_leaves {legal : Bool} {h : Word} {done : State} (hdone : P done)
    (hfail : ∀ e, P (s.cmdError e h)) : Leaves (withArg legal h s done) P := fun t ht => by
  rcases withArg_cases s ht with ⟨-, rfl⟩ | ⟨-, rfl⟩
  · exact hdone
  · exact hfail _

theorem withUnit_leaves {limit : Nat} {h : Word} {unit : Byte} {k : Fin limit → Result}
    (hk : ∀ n : Fin limit, n.val = unit.toNat → Leaves (k n) P) (hfail : ∀ e, P (s.cmdError e h)) :
    Leaves (withUnit limit h unit s k) P := fun t ht => by
  rcases withUnit_cases s ht with ⟨hu, ht⟩ | ⟨-, rfl⟩
  · exact hk _ rfl t ht
  · exact hfail _

theorem withSub_leaves {nsub : Nat} {h : Word} {sub : Byte} {k : Fin nsub → Result}
    (hk : ∀ n, Leaves (k n) P) (hfail : ∀ e, P (s.cmdError e h)) :
    Leaves (withSub nsub h sub s k) P := fun t ht => by
  rcases withSub_cases s ht with ⟨hs, ht⟩ | ⟨-, rfl⟩
  · exact hk _ t ht
  · exact hfail _

/-- Every next state of a command is one of its effects. Beside the commands with an effect of their own,
the groups are those of class O, C and I, by the checks of R86 that they make. -/
theorem exec_effect (i : Instr) (s : State) : Leaves (exec i s) (Effect s i) := by
  have hfail := cmdError_effect s i
  cases i with
  | nop => exact leaves_next (.unchanged _)
  | setSampleRate => exact withArg_leaves (writeSampleRate_effect s) hfail
  | setMaxBlock => exact withArg_leaves .setMaxBlock hfail
  | render => exact withArg_leaves (rendered_effect (rendered_renderBlock s _)) hfail
  | reset => exact leaves_next .reset
  | clearStatus => exact withArg_leaves (clearStatus_effect s _) hfail
  | rampSetTarget => exact leaves_next (startRamp_effect s)
  | rampSetTime => exact leaves_next (.rampSetTime _)
  | rampSetValue => exact leaves_next .rampSetValue
  | oscSetFreq unit =>
    exact withUnit_leaves (fun _ hn => leaves_next (writeOscFreq_effect s hn)) hfail
  | oscSetPw unit | oscSetFmul unit | oscSetPoff unit | oscSetPhase unit =>
    exact withUnit_leaves (fun n _ => leaves_next (modifyOsc_effect s rfl n fun _ => by rfl)) hfail
  | oscSetWave unit | oscSetMode unit | oscEnable unit =>
    exact withUnit_leaves
      (fun n _ => withArg_leaves (modifyOsc_effect s rfl n fun _ => by rfl) hfail) hfail
  | oscStep unit => exact withUnit_leaves (fun n _ => leaves_next (advance_effect s rfl n)) hfail
  | oscTick unit => exact withUnit_leaves (fun n _ => leaves_next (tick_effect s rfl n)) hfail
  | chClearHist unit =>
    exact withUnit_leaves (fun c hc => leaves_next (.chClearHist unit c hc _)) hfail
  | chSetOffset unit | chSetClip unit | chSetDry unit | chSetWet unit | chSetGain unit | chSetPan unit =>
    exact withUnit_leaves (fun c _ => leaves_next (modifyCh_effect s rfl c fun _ => by rfl)) hfail
  | chEnable unit | chSetFlags unit =>
    exact withUnit_leaves (fun c _ => withArg_leaves (modifyCh_effect s rfl c fun _ => by rfl) hfail) hfail
  | chSetTapSrc unit sub =>
    dsimp only [exec, execChSetTapSrc]
    refine withUnit_leaves (fun c _ => ?_) hfail
    exact withSub_leaves (fun _ => withArg_leaves (modifyCh_effect s rfl c fun _ => by rfl) hfail) hfail
  | chSetTapGain unit sub =>
    dsimp only [exec, execChSetTapGain]
    refine withUnit_leaves (fun c _ => ?_) hfail
    exact withSub_leaves (fun _ => leaves_next (modifyCh_effect s rfl c fun _ => by rfl)) hfail
  | chSetCoef unit sub =>
    dsimp only [exec, execChSetCoef]
    refine withUnit_leaves (fun c _ => ?_) hfail
    exact withSub_leaves (fun _ => leaves_next (modifyCh_effect s rfl c fun _ => by split <;> rfl)) hfail
  | ipEnable unit | ipSetSrc unit | ipSetDest unit =>
    exact withUnit_leaves (fun k _ => withArg_leaves (.ip rfl k _) hfail) hfail
  | ipSetMin unit | ipSetMax unit =>
    exact withUnit_leaves (fun k _ => leaves_next (.ip rfl k _)) hfail

end Sys2Proof.Machine
end

section
/-! PROOF. The rules of the whole machine on flags and registers, read off the effects of the commands: the
flags are sticky (R31, R65, R184; O55), OUTBUF is written by RENDER and the hardware reset alone (R63, R74,
R197; O56), and every register has its writers (R33 to R43, R56, R200; O57). -/

namespace Sys2Proof.Machine

variable {s t : State} {i : Instr}

/-! ### What the effects say of the flags, of OUTBUF and of each register -/

theorem effect_flagsKept (h : Effect s i t) (hclear : i ≠ .clearStatus) (hreset : i ≠ .reset) :
    FlagsKept s t := by
  cases h with
  | failed _ e he => exact flagsKept_failed he e _ _
  | setSampleRate _ hflags => exact flagsKept_congr hflags rfl rfl rfl
  | render hflags => exact flagsKept_congr hflags rfl rfl rfl
  | reset => exact absurd rfl hreset
  | clearStatus => exact absurd rfl hclear
  | oscSetFreq | osc =>
    exact flagsKept_congr (flagsKept_flagged (flagsKept_refl s) (.inl rfl) _) rfl rfl rfl
  | _ => exact flagsKept_congr (flagsKept_refl s) rfl rfl rfl

/-- No command but RENDER writes OUTBUF; RESET keeps it too (R196). -/
theorem effect_outbuf (h : Effect s i t) (hrender : i ≠ .render) : t.outbuf = s.outbuf := by
  cases h with
  | render => exact absurd rfl hrender
  | _ => rfl

theorem effect_cmd (h : Effect s i t) : t.cmd = s.cmd := by cases h <;> rfl

theorem effect_sameSurroundings (h : Effect s i t) : SameSurroundings s t := by
  cases h <;> exact sameSurroundings_refl s

/-- RAMP_CNT rises with RAMP_SET_TARGET alone (R40). -/
theorem effect_rampCnt_le (h : Effect s i t) (htarget : i ≠ .rampSetTarget) :
    t.rampCnt.toNat ≤ s.rampCnt.toNat := by
  cases h with
  | rampSetTarget => exact absurd rfl htarget
  | render _ _ hcnt => exact hcnt
  | reset | rampSetValue => exact Nat.zero_le _
  | _ => exact le_rfl

theorem effect_cmdArg (h : Effect s i t) (hreset : i ≠ .reset) : t.cmdArg = s.cmdArg := by
  cases h with
  | reset => exact absurd rfl hreset
  | _ => rfl

theorem effect_sampleRate (h : Effect s i t) (hreset : i ≠ .reset) (hrate : i ≠ .setSampleRate) :
    t.sampleRate = s.sampleRate := by
  cases h with
  | reset => exact absurd rfl hreset
  | setSampleRate => exact absurd rfl hrate
  | _ => rfl

theorem effect_maxBlock (h : Effect s i t) (hreset : i ≠ .reset) (hmax : i ≠ .setMaxBlock) :
    t.maxBlock = s.maxBlock := by
  cases h with
  | reset => exact absurd rfl hreset
  | setMaxBlock => exact absurd rfl hmax
  | _ => rfl

theorem effect_rampTime (h : Effect s i t) (hreset : i ≠ .reset) (htime : i ≠ .rampSetTime) :
    t.rampTime = s.rampTime := by
  cases h with
  | reset => exact absurd rfl hreset
  | rampSetTime => exact absurd rfl htime
  | _ => rfl

theorem effect_rampLen (h : Effect s i t) (hreset : i ≠ .reset) (htime : i ≠ .rampSetTime)
    (hrate : i ≠ .setSampleRate) : t.rampLen = s.rampLen := by
  cases h with
  | reset => exact absurd rfl hreset
  | rampSetTime => exact absurd rfl htime
  | setSampleRate => exact absurd rfl hrate
  | _ => rfl

theorem effect_rampTarget (h : Effect s i t) (hreset : i ≠ .reset) (htarget : i ≠ .rampSetTarget)
    (hvalue : i ≠ .rampSetValue) : t.rampTarget = s.rampTarget ∧ t.rampStep = s.rampStep := by
  cases h with
  | reset => exact absurd rfl hreset
  | rampSetTarget => exact absurd rfl htarget
  | rampSetValue => exact absurd rfl hvalue
  | _ => exact ⟨rfl, rfl⟩

/-- The results of a frame (R37, R41). -/
theorem effect_frameCount (h : Effect s i t) (hreset : i ≠ .reset) (hrender : i ≠ .render) :
    t.frameCount = s.frameCount ∧ t.lastL = s.lastL ∧ t.lastR = s.lastR := by
  cases h with
  | reset => exact absurd rfl hreset
  | render => exact absurd rfl hrender
  | _ => exact ⟨rfl, rfl, rfl⟩

/-- The unit byte of a unit's own number. -/
theorem eq_ofNat_of_toNat {limit : Nat} {unit : Byte} {n : Fin limit} (h : n.val = unit.toNat) :
    unit = BitVec.ofNat 8 n := by
  rw [h, BitVec.ofNat_toNat, BitVec.setWidth_eq]

/-- FREQ and PINC of an oscillator, where neither its own OSC_SET_FREQ nor a new rate sets them. -/
theorem effect_pitch (h : Effect s i t) (hreset : i ≠ .reset) {n : Fin Config.nosc}
    (hset : i ≠ .oscSetFreq (BitVec.ofNat 8 n)) (hrate : i ≠ .setSampleRate) :
    t.osc[n].pitch = s.osc[n].pitch := by
  cases h with
  | reset => exact absurd rfl hreset
  | setSampleRate => exact absurd rfl hrate
  | render _ hpitch => exact hpitch n
  | oscSetFreq unit m hm f =>
    have hne : n ≠ m := fun e => hset (by rw [e, ← eq_ofNat_of_toNat hm])
    exact congrArg Osc.pitch (modifyOsc_osc_other s f hne)
  | osc _ m f hf => exact modifyOsc_osc_view s Osc.pitch hf m n
  | _ => rfl

theorem effect_freq (h : Effect s i t) (hreset : i ≠ .reset) {n : Fin Config.nosc}
    (hset : i ≠ .oscSetFreq (BitVec.ofNat 8 n)) : t.osc[n].freq = s.osc[n].freq := by
  by_cases hrate : i = .setSampleRate
  · subst hrate
    cases h with
    | setSampleRate hfreq => exact hfreq n
    | unchanged | failed => rfl
    | osc hi | ch hi | ip hi => cases hi
  · exact congrArg Prod.fst (effect_pitch h hreset hset hrate)

theorem effect_history (h : Effect s i t) (hreset : i ≠ .reset) (hrender : i ≠ .render)
    {c : Fin Config.nch} (hclear : i ≠ .chClearHist (BitVec.ofNat 8 c)) :
    t.ch[c].history = s.ch[c].history := by
  cases h with
  | reset => exact absurd rfl hreset
  | render => exact absurd rfl hrender
  | chClearHist unit d hd f =>
    have hne : c ≠ d := fun e => hclear (by rw [e, ← eq_ofNat_of_toNat hd])
    exact congrArg Channel.history (modifyCh_ch_other s f hne)
  | ch _ d f hf => exact modifyCh_ch_view s Channel.history hf d c
  | _ => rfl

/-! ### The step that executes RENDER -/

/-- What a header that decodes is (R86): its row's command, with the fields that the row fixes at 0. -/
theorem decode_ok_row {h : Word} (hd : decode h = .ok i) :
    ∃ row, opRow (headerOpc h) = some row ∧ headerRsvd h = 0 ∧ (row.cls = .G → headerUnit h = 0) ∧
      (row.nsub = 0 → headerSub h = 0) ∧ row.build (headerUnit h) (headerSub h) = i := by
  unfold decode at hd
  cases hrow : opRow (headerOpc h) with
  | none => rw [hrow] at hd; cases hd
  | some row =>
    rw [hrow] at hd
    dsimp only at hd
    split_ifs at hd with hrsvd hunit hsub
    refine ⟨row, rfl, not_not.1 hrsvd, fun hg => ?_, fun h0 => ?_, Except.ok.inj hd⟩
    · exact not_not.1 fun hne => hunit ⟨hg, hne⟩
    · exact not_not.1 fun hne => hsub ⟨h0, hne⟩

/-- A row builds commands of its own opcode, with the fields that it does not fix at 0. -/
theorem opRow_build_fields {o u v : Byte} {row : OpRow} (h : opRow o = some row)
    (hu : row.cls = .G → u = 0) (hv : row.nsub = 0 → v = 0) :
    (row.build u v).opc = o ∧ (row.build u v).unit = u ∧ (row.build u v).sub = v := by
  unfold opRow at h
  split at h <;> cases h
  all_goals next ho =>
    refine ⟨BitVec.eq_of_toNat_eq ho.symm, ?_, ?_⟩
    · first | rfl | exact (hu rfl).symm
    · first | rfl | exact (hv rfl).symm

/-- A header that decodes is its command's encoding (R84, R89). -/
theorem encode_of_decode {h : Word} (hd : decode h = .ok i) : encode i = h := by
  obtain ⟨row, hrow, hrsvd, hunit, hsub, rfl⟩ := decode_ok_row hd
  obtain ⟨ho, hu, hv⟩ := opRow_build_fields hrow hunit hsub
  rw [encode, ho, hu, hv]
  exact header_of_fields h hrsvd

/-- From `s` to `t` OUTBUF and its unwritten content are as before. -/
def OutbufKept (s t : State) : Prop := t.outbuf = s.outbuf ∧ t.powerOns = s.powerOns

theorem execute_outbufKept (h : Word) (hrender : h ≠ 0x03000000) :
    Leaves (s.execute h) (OutbufKept s) := by
  unfold State.execute
  cases hd : decode h with
  | error e => exact leaves_next ⟨cmdError_outbuf s e h, cmdError_powerOns s e h⟩
  | ok i =>
    intro t ht
    have effect := exec_effect i s t ht
    have hi : i ≠ .render := fun e => hrender (by rw [← encode_of_decode hd, e]; rfl)
    exact ⟨effect_outbuf effect hi, (effect_sameSurroundings effect).1⟩

theorem busRead_outbufKept (w : Width) (a : Nat) : Leaves (s.busRead w a) (OutbufKept s) := by
  unfold State.busRead
  split_ifs
  · exact fun _ h => nomatch h
  · exact leaves_next ⟨rfl, rfl⟩
  · exact leaves_next ⟨rfl, rfl⟩

/-- A write writes OUTBUF only as the aligned 32-bit write of RENDER's header to CMD (R73, R74). -/
theorem busWrite_outbufKept {w : Width} {a : Nat} {v : Word}
    (hrender : ¬(w = .word ∧ a = 0x020 ∧ v = 0x03000000)) :
    Leaves (s.busWrite w a v) (OutbufKept s) := by
  unfold State.busWrite State.memWrite
  split_ifs with hout hdef harg hcmd
  · exact fun _ h => nomatch h
  · exact leaves_next ⟨rfl, rfl⟩
  · have hw : w = .word := by
      simp only [accessDefined, Bool.and_eq_true, beq_iff_eq] at hdef
      exact hdef.1
    exact execute_outbufKept v fun hv => hrender ⟨hw, hcmd, hv⟩
  · exact leaves_next ⟨rfl, rfl⟩
  · exact leaves_next ⟨rfl, rfl⟩

/-- Above the registers the window is read from OUTBUF alone (R67). -/
theorem outbufKept_readWord (h : OutbufKept s t) {a : Nat} (ha : 0x8000 ≤ a) :
    t.readWord a = s.readWord a := by
  obtain ⟨hbuf, hon⟩ := h
  rcases lt_or_ge a 0xA000 with hlt | hge
  · simp only [readWord_outbuf _ ha hlt, State.outbufWord, State.outbufByte, hbuf, hon]
  · rw [readWord_above t hge, readWord_above s hge]

theorem outbufKept_readByte (h : OutbufKept s t) {a : Nat} (ha : 0x8000 ≤ a) :
    t.readByte a = s.readByte a := by
  rw [State.readByte, State.readByte, outbufKept_readWord h (by omega)]

end Sys2Proof.Machine

open Sys2Proof Sys2Proof.Machine

/-- Settles O55: every effect but those of CLEAR_STATUS and RESET keeps the flags. -/
theorem flagsAreSticky : Obligations.FlagsAreSticky := by
  intro i s t h hclear hreset
  have kept := effect_flagsKept (exec_effect i s t h) hclear hreset
  exact ⟨kept.range, kept.sat, kept.record⟩

/-- Settles O56, by the event that is next: a read writes nothing, and a write only by the command that it
executes. -/
theorem onlyRenderWritesOutbuf : Obligations.OnlyRenderWritesOutbuf := by
  intro s t hstep hreset hrender
  have kept : OutbufKept s t := by
    rcases hev : s.events with _ | ⟨e, rest⟩
    · rw [step_of_no_event hev] at hstep
      cases hstep
      exact ⟨rfl, rfl⟩
    rw [step_of_event hev] at hstep
    cases e with
    | read w a => exact busRead_outbufKept (s := { s with events := rest }) w a t hstep
    | write w a v =>
      refine busWrite_outbufKept (s := { s with events := rest }) (fun ⟨hw, ha, hv⟩ => ?_) t hstep
      exact hrender rest (by rw [hev, hw, ha, hv])
    | hardReset => exact absurd hev (hreset rest)
  exact ⟨fun _ => outbufKept_readByte kept, fun _ _ => outbufKept_readWord kept⟩

/-- Settles O57: each register's writers are read off the effects. -/
theorem registersHaveTheirWriters : Obligations.RegistersHaveTheirWriters := by
  intro i s t h
  have effect := exec_effect i s t h
  refine ⟨effect_cmd effect, effect_sameSurroundings effect, effect_rampCnt_le effect, ?loads, fun hreset =>
    ⟨effect_cmdArg effect hreset, effect_sampleRate effect hreset, effect_maxBlock effect hreset,
      effect_rampTime effect hreset, effect_rampLen effect hreset, effect_rampTarget effect hreset,
      effect_frameCount effect hreset, fun n => effect_freq effect hreset (n := n), ?pinc, ?history⟩⟩
  case loads =>
    rintro rfl
    cases h
    exact congrArg State.rampCnt (startRamp_eq s s.cmdArg)
  case pinc =>
    intro n hset hrate
    exact congrArg Prod.snd (effect_pitch effect hreset (n := n) hset hrate)
  case history =>
    intro c hrender hclear
    have kept := effect_history effect hreset hrender (c := c) hclear
    simpa only [Channel.history, Prod.mk.injEq] using kept
end

section
/-! PROOF. The host's accesses (20_memory.md): an aligned 32-bit read (R72; O9), a bus error (R71, R187; O10),
a write by its offset (R73, R25, R201; O11), the step that executes a command (R73, R86; O7), and the byte
order of the window's words (R70; O13). -/

namespace Sys2Proof.Machine

variable (s : State)

/-! ### The bus, by the width and the alignment of the access (R71) -/

theorem accessDefined_word {a : Nat} (h : a % 4 = 0) : accessDefined .word a = true := by
  simp [accessDefined, h]

theorem accessDefined_undefined {w : Width} {a : Nat} (h : w ≠ .word ∨ a % 4 ≠ 0) :
    accessDefined w a = false := by
  rw [accessDefined, Bool.and_eq_false_iff, beq_eq_false_iff_ne, beq_eq_false_iff_ne]
  exact h

theorem busRead_word {a : Nat} (hin : a < windowSize) (h : a % 4 = 0) :
    s.busRead .word a = .next { s with response := some (.readData (s.readWord a)) } := by
  rw [State.busRead, if_neg (not_le.2 hin), if_pos (accessDefined_word h)]

theorem busRead_undefined {w : Width} {a : Nat} (hin : a < windowSize) (h : w ≠ .word ∨ a % 4 ≠ 0) :
    s.busRead w a = .next { s with response := some (.readError 0) } := by
  rw [State.busRead, if_neg (not_le.2 hin), accessDefined_undefined h]; rfl

theorem busWrite_word {a : Nat} (v : Word) (hin : a < windowSize) (h : a % 4 = 0) :
    s.busWrite .word a v = State.memWrite { s with response := some .writeDone } a v := by
  rw [State.busWrite, if_neg (not_le.2 hin), if_pos (accessDefined_word h)]

theorem busWrite_undefined {w : Width} {a : Nat} (v : Word) (hin : a < windowSize)
    (h : w ≠ .word ∨ a % 4 ≠ 0) : s.busWrite w a v = .next { s with response := some .writeError } := by
  rw [State.busWrite, if_neg (not_le.2 hin), accessDefined_undefined h]; rfl

/-! ### A defined write, by its offset (R73) -/

theorem memWrite_cmdArg (v : Word) : s.memWrite cmdArgOffset v = .next { s with cmdArg := v } := rfl

theorem memWrite_cmd (h : Word) : s.memWrite cmdOffset h = State.execute { s with cmd := h } h := rfl

theorem memWrite_elsewhere {a : Nat} (v : Word) (harg : a ≠ cmdArgOffset) (hcmd : a ≠ cmdOffset) :
    s.memWrite a v = .next s := by
  rw [State.memWrite, if_neg harg, if_neg hcmd]

/-! ### The step that executes a command (R73, R86) -/

theorem execute_of_decode {h : Word} {i : Instr} (hd : decode h = .ok i) : s.execute h = exec i s := by
  rw [State.execute, hd]

theorem execute_of_error {h : Word} {e : CmdErr} (hd : decode h = .error e) :
    s.execute h = .next (s.cmdError e h) := by
  rw [State.execute, hd]

/-- A step whose access writes CMD executes the header on the state with CMD written. -/
theorem step_of_headerWrite {s : State} {h : Word} {rest : List BusEvent}
    (hev : s.events = .write .word cmdOffset h :: rest) :
    step s = State.execute { s with events := rest, response := some .writeDone, cmd := h } h := by
  rw [step_of_event hev, State.perform, busWrite_word _ h (by decide) rfl, memWrite_cmd]

/-- Each command and its row of R88, by the fields that the row fixes. -/
theorem encodingMatches (i : Instr) : Laws.EncodingMatches.Statement i := by
  cases i with
  | nop | setSampleRate | setMaxBlock | render | reset | clearStatus | rampSetTarget | rampSetTime
  | rampSetValue =>
    exact Laws.EncodingMatches.of_row rfl rfl rfl rfl (fun _ => rfl) (fun _ => rfl)
  | chSetTapSrc unit sub | chSetTapGain unit sub | chSetCoef unit sub =>
    exact Laws.EncodingMatches.of_row rfl rfl rfl rfl (fun h => nomatch h) (fun h => nomatch h)
  | _ => exact Laws.EncodingMatches.of_row rfl rfl rfl rfl (fun h => nomatch h) (fun _ => rfl)

/-- A command's header passes the decoder's checks, as its row and the command agree (R84, R88). -/
theorem decode_encode (i : Instr) : decode (encode i) = .ok i := by
  obtain ⟨⟨row, hrow, hcls, hnsub, hbuild⟩, hunit, hsub⟩ := encodingMatches i
  have unitOk : ¬(row.cls = .G ∧ i.unit ≠ 0) := fun ⟨hG, hne⟩ => hne (hunit (hcls ▸ hG))
  have subOk : ¬(row.nsub = 0 ∧ i.sub ≠ 0) := fun ⟨h0, hne⟩ => hne (hsub (hnsub ▸ h0))
  simp only [decode, encode, headerOpc_header, headerRsvd_header, headerUnit_header, headerSub_header,
    hrow, ne_eq, not_true_eq_false, if_false, if_neg unitOk, if_neg subOk, hbuild]

theorem tableWord_toNat (w : Word) : tableWord 32 w.toNat = w := by
  rw [tableWord, Nat.mod_eq_of_lt w.isLt, BitVec.ofNat_toNat, BitVec.setWidth_eq]

theorem withFetchWord_events (w : Word) :
    (s.withFetchWord 32 w.toNat).events = .write .word cmdOffset w :: s.events := by
  rw [State.withFetchWord, tableWord_toNat]; rfl

/-! ### The byte order (R70) -/

theorem readByte_eq {a k : Nat} (ha : a % 4 = 0) (hk : k < 4) :
    s.readByte (a + k) = (s.readWord a).extractLsb' (8 * k) 8 := by
  have offset : (a + k) % 4 = k := by omega
  rw [State.readByte, offset, Nat.add_sub_cancel]

theorem extractLsb'_append_low {n : Nat} (x : BitVec n) (b : Byte) : (x ++ b).extractLsb' 0 8 = b := by
  rw [BitVec.extractLsb'_append_eq_of_add_le (by decide), BitVec.extractLsb'_eq_self]

theorem extractLsb'_append_high {n : Nat} (x : BitVec n) (b : Byte) (lo : Nat) :
    (x ++ b).extractLsb' (8 + lo) 8 = x.extractLsb' lo 8 := by
  rw [BitVec.extractLsb'_append_eq_of_le (by omega), Nat.add_sub_cancel_left]

/-- The bytes of a word of OUTBUF are the bytes that it is made of. -/
theorem outbufWord_byte (a : Nat) {k : Nat} (hk : k < 4) :
    (s.outbufWord a).extractLsb' (8 * k) 8 = s.outbufByte (a + k) := by
  rw [State.outbufWord]
  match k, hk with
  | 0, _ => exact extractLsb'_append_low _ _
  | 1, _ => exact (extractLsb'_append_high _ _ 0).trans (extractLsb'_append_low _ _)
  | 2, _ =>
    exact (extractLsb'_append_high _ _ 8).trans
      ((extractLsb'_append_high _ _ 0).trans (extractLsb'_append_low _ _))
  | 3, _ =>
    exact (extractLsb'_append_high _ _ 16).trans
      ((extractLsb'_append_high _ _ 8).trans
        ((extractLsb'_append_high _ _ 0).trans BitVec.extractLsb'_eq_self))

theorem readByte_outbuf {a k : Nat} (ha : a % 4 = 0) (hk : k < 4) (hlo : 0x8000 ≤ a) (hhi : a < 0xA000) :
    s.readByte (a + k) = s.outbufByte (a + k) := by
  rw [readByte_eq s ha hk, readWord_outbuf s hlo hhi, outbufWord_byte s a hk]

end Sys2Proof.Machine

open Sys2Proof Sys2Proof.Machine

/-- Settles O7: the access executes its header, and a header decodes to its command or to an error; for
`withFetchWord`, the header is the encoding, which decodes to the command. -/
theorem stepExecutesWrittenHeader : Obligations.StepExecutesWrittenHeader := by
  refine ⟨fun s h rest hev => ⟨fun i hd => ?ok, fun e hd => ?error⟩, fun s i => ?fetch⟩
  case ok => rw [step_of_headerWrite hev, execute_of_decode _ hd]
  case error => rw [step_of_headerWrite hev, execute_of_error _ hd]
  case fetch =>
    rw [step_of_headerWrite (withFetchWord_events s (encode i)), execute_of_decode _ (decode_encode i)]
    rfl

/-- Settles O9: the response is the word at the offset, which is 0 where the offset is reserved (R68). -/
theorem busReadReturnsWord : Obligations.BusReadReturnsWord := by
  intro s a rest hev hin ha
  have hstep := (step_of_event hev).trans (busRead_word { s with events := rest } hin ha)
  refine ⟨_, hstep, rfl, rfl, fun hres => ?_⟩
  exact congrArg (fun v => some (BusResponse.readData v)) (readWord_reserved _ hres)

/-- Settles O10, the read and the write each by the bus's rule for an undefined access. -/
theorem busErrorChangesNothing : Obligations.BusErrorChangesNothing := by
  intro s w a v rest hin hbad
  constructor
  · intro hev
    exact (step_of_event hev).trans (busRead_undefined _ hin hbad)
  · intro hev
    exact (step_of_event hev).trans (busWrite_undefined _ v hin hbad)

/-- Settles O11: a defined write, at CMD_ARG and at an offset that is neither CMD_ARG nor CMD. -/
theorem busWriteActsByOffset : Obligations.BusWriteActsByOffset := by
  intro s a v rest hev hin ha
  have hstep := (step_of_event hev).trans (busWrite_word { s with events := rest } v hin ha)
  constructor
  · rintro rfl
    exact hstep.trans (memWrite_cmdArg _ v)
  · intro harg hcmd
    exact hstep.trans (memWrite_elsewhere _ v harg hcmd)

/-- Settles O13: the bytes are the word's in R70's order, so they make the word again, and OUTBUF's words
are made of OUTBUF's bytes. -/
theorem wordsAreLittleEndian : Obligations.WordsAreLittleEndian := by
  intro s a ha
  refine ⟨?_, fun hlo hhi k hk => readByte_outbuf s ha hk hlo hhi⟩
  have first : s.readByte a = (s.readWord a).extractLsb' 0 8 := readByte_eq s (k := 0) ha (by decide)
  rw [readByte_eq s ha (by decide : 3 < 4), readByte_eq s ha (by decide : 2 < 4),
    readByte_eq s ha (by decide : 1 < 4), first]
  exact (append_extractLsb' (s.readWord a)).symm
end

section
/-! PROOF. The block never reads OUTBUF (R74; O58): every operation of a command, run on two states with the
same registers, leaves two states with the same registers. -/

namespace Sys2Proof.Machine

variable {s t : State}

/-! ### States that differ in OUTBUF alone -/

/-- To have the registers of `s` is to be `s` with another OUTBUF. -/
theorem sameRegisters_iff : SameRegisters s t ↔ ∃ m, t = { s with outbuf := m } := by
  constructor
  · intro h
    exact ⟨t.outbuf, (congrArg (fun u : State => { u with outbuf := t.outbuf }) h).symm⟩
  · rintro ⟨m, rfl⟩
    rfl

theorem ite_sameRegisters {c : Prop} [Decidable c] {s' t' : State} (h : SameRegisters s t)
    (h' : SameRegisters s' t') : SameRegisters (if c then s else s') (if c then t else t') := by
  split_ifs
  · exact h
  · exact h'

/-- The operation makes states with the same registers of states with the same registers. -/
def IgnoresOutbuf (f : State → State) : Prop := ∀ ⦃s t⦄, SameRegisters s t → SameRegisters (f s) (f t)

theorem ignoresOutbuf_of_with {f : State → State}
    (h : ∀ (s : State) (m : Memory), SameRegisters (f s) (f { s with outbuf := m })) :
    IgnoresOutbuf f := by
  intro s t hst
  obtain ⟨m, rfl⟩ := sameRegisters_iff.1 hst
  exact h s m

theorem forUnits_ignoresOutbuf {n : Nat} {f : Fin n → State → State} (hf : ∀ k, IgnoresOutbuf (f k)) :
    IgnoresOutbuf (forUnits n f) := by
  unfold forUnits
  generalize List.finRange n = ks
  induction ks with
  | nil => exact fun _ _ h => h
  | cons k ks ih => exact fun _ _ h => ih (hf k h)

/-! ### The shared operations -/

theorem modifyOsc_ignoresOutbuf (n : Fin Config.nosc) (f : Osc → Osc) : IgnoresOutbuf (·.modifyOsc n f) :=
  ignoresOutbuf_of_with fun _ _ => rfl

theorem modifyCh_ignoresOutbuf (c : Fin Config.nch) (f : Channel → Channel) :
    IgnoresOutbuf (·.modifyCh c f) :=
  ignoresOutbuf_of_with fun _ _ => rfl

theorem modifyIp_ignoresOutbuf (k : Fin Config.nip) (f : Interp → Interp) : IgnoresOutbuf (·.modifyIp k f) :=
  ignoresOutbuf_of_with fun _ _ => rfl

theorem noteRange_ignoresOutbuf (b : Bool) : IgnoresOutbuf (·.noteRange b) :=
  ignoresOutbuf_of_with fun _ _ => ite_sameRegisters rfl rfl

theorem noteSat_ignoresOutbuf (b : Bool) : IgnoresOutbuf (·.noteSat b) :=
  ignoresOutbuf_of_with fun _ _ => ite_sameRegisters rfl rfl

theorem cmdError_ignoresOutbuf (e : CmdErr) (h : Word) : IgnoresOutbuf (·.cmdError e h) :=
  ignoresOutbuf_of_with fun _ _ => ite_sameRegisters rfl rfl

/-! ### Stages 1 to 3: oscillators and interpolators -/

theorem recompute_ignoresOutbuf (n : Fin Config.nosc) : IgnoresOutbuf (·.recompute n) :=
  ignoresOutbuf_of_with fun _ _ => noteRange_ignoresOutbuf _ rfl

theorem advance_ignoresOutbuf (n : Fin Config.nosc) : IgnoresOutbuf (·.advance n) :=
  ignoresOutbuf_of_with fun _ _ => noteRange_ignoresOutbuf _ rfl

theorem fire_ignoresOutbuf (n : Fin Config.nosc) : IgnoresOutbuf (·.fire n) :=
  ignoresOutbuf_of_with fun s m => by
    rw [fire_eq_noteRange, fire_eq_noteRange]
    exact noteRange_ignoresOutbuf _ rfl

theorem fireIf_ignoresOutbuf (mode : BitVec 2) (n : Fin Config.nosc) : IgnoresOutbuf (·.fireIf mode n) :=
  ignoresOutbuf_of_with fun _ _ => ite_sameRegisters (fire_ignoresOutbuf n rfl) rfl

theorem drawSource_ignoresOutbuf (src : Word) : IgnoresOutbuf (·.drawSource src) := by
  intro s t h
  dsimp only [State.drawSource]
  split
  · exact fireIf_ignoresOutbuf _ _ h
  · exact h

theorem atUnit_sameRegisters {limit : Nat} {unit : Byte} {write write' : Fin limit → State}
    (hw : ∀ n, SameRegisters (write n) (write' n)) (h : SameRegisters s t) :
    SameRegisters (atUnit unit write s) (atUnit unit write' t) := by
  unfold atUnit
  split
  · exact hw _
  · exact h

/-- The destinations by the unit that they name: an oscillator, a channel with or without SUB, or an
interpolator (R145). -/
theorem writeDest_ignoresOutbuf (d a : Word) : IgnoresOutbuf (·.writeDest d a) := by
  intro s t h
  dsimp only [State.writeDest]
  split
  case h_1 | h_2 | h_3 => exact atUnit_sameRegisters (fun n => modifyOsc_ignoresOutbuf n _ h) h
  case h_4 | h_7 =>
    exact atUnit_sameRegisters (fun c => atUnit_sameRegisters (fun _ => modifyCh_ignoresOutbuf c _ h) h) h
  case h_5 | h_6 | h_8 | h_9 | h_10 | h_11 =>
    exact atUnit_sameRegisters (fun c => modifyCh_ignoresOutbuf c _ h) h
  case h_12 | h_13 => exact atUnit_sameRegisters (fun k => modifyIp_ignoresOutbuf k _ h) h
  case h_14 => exact h

/-- A run of an interpolator after its source is read: OUT takes the mapped value (R143), and so does the
destination where there is one (R146). -/
def State.applyInterp (s : State) (k : Fin Config.nip) (src : Word) : State :=
  let yRaw := s.ip[k].mapRaw (s.oscOut src)
  let d := s.ip[k].dest
  let s := (s.modifyIp k fun i => { i with out := toFx (sat32 yRaw) }).noteSat (saturates yRaw)
  if d = 0 then s else s.writeDest d (destOperand d (sat32 yRaw))

theorem runInterp_eq_applyInterp (s : State) (k : Fin Config.nip) :
    s.runInterp k = (s.drawSource s.ip[k].src).applyInterp k s.ip[k].src := rfl

theorem applyInterp_ignoresOutbuf (k : Fin Config.nip) (src : Word) :
    IgnoresOutbuf (·.applyInterp k src) := by
  refine ignoresOutbuf_of_with fun s m => ?_
  have noted (y : Int) (f : Interp → Interp) :
      SameRegisters ((s.modifyIp k f).noteSat (saturates y))
        ((State.modifyIp { s with outbuf := m } k f).noteSat (saturates y)) :=
    noteSat_ignoresOutbuf _ rfl
  exact ite_sameRegisters (noted _ _) (writeDest_ignoresOutbuf _ _ (noted _ _))

theorem runInterpIf_ignoresOutbuf (k : Fin Config.nip) : IgnoresOutbuf (·.runInterpIf k) := by
  refine ignoresOutbuf_of_with fun s m => ite_sameRegisters ?_ rfl
  rw [runInterp_eq_applyInterp, runInterp_eq_applyInterp]
  exact applyInterp_ignoresOutbuf k _ (drawSource_ignoresOutbuf _ rfl)

theorem inputsReady_ignoresOutbuf : IgnoresOutbuf State.inputsReady := by
  intro s t h
  unfold State.inputsReady State.stageOscs State.stageInterps State.stageLfos
  have lfos := forUnits_ignoresOutbuf (fireIf_ignoresOutbuf modeLfoOnce) h
  have interps := forUnits_ignoresOutbuf runInterpIf_ignoresOutbuf lfos
  exact forUnits_ignoresOutbuf (fireIf_ignoresOutbuf modeAudio) interps

/-! ### Stages 4 to 6, and the block -/

theorem runChannelIf_ignoresOutbuf (c : Fin Config.nch) : IgnoresOutbuf (·.runChannelIf c) :=
  ignoresOutbuf_of_with fun _ _ => ite_sameRegisters (noteSat_ignoresOutbuf _ rfl) rfl

theorem stageChannels_ignoresOutbuf : IgnoresOutbuf State.stageChannels :=
  forUnits_ignoresOutbuf runChannelIf_ignoresOutbuf

theorem advanceRamp_ignoresOutbuf : IgnoresOutbuf State.advanceRamp :=
  ignoresOutbuf_of_with fun _ _ => ite_sameRegisters rfl (ite_sameRegisters rfl rfl)

/-- What stage 6 writes (R170): the frame in OUTBUF, LAST_L, LAST_R and FRAME_COUNT. -/
def State.emitFrame (s : State) (i : Nat) (l r : Word) : State :=
  { s.writeFrame i l r with lastL := l, lastR := r, frameCount := s.frameCount + 1 }

/-- Stages 5 and 6 once the ramp is advanced: both sides' mix times the master gain (R159), recorded and
emitted. -/
def State.emitSides (s : State) (i : Nat) (lMix rMix : Int) : State :=
  let lRaw := s.sideRaw lMix
  let rRaw := s.sideRaw rMix
  (s.noteSat (saturates lMix || saturates rMix || saturates lRaw || saturates rRaw)).emitFrame i
    (toFx (sat32 lRaw)) (toFx (sat32 rRaw))

theorem stageOutput_eq_emitSides (s : State) (i : Nat) :
    s.stageOutput i =
      s.advanceRamp.emitSides i (s.mixRaw Channel.panLeft) (s.mixRaw Channel.panRight) := rfl

/-- A frame's samples go to OUTBUF, LAST_L and LAST_R, whatever OUTBUF holds. -/
theorem emitFrame_ignoresOutbuf (i : Nat) (l r : Word) : IgnoresOutbuf (·.emitFrame i l r) := by
  refine ignoresOutbuf_of_with fun s m => ?_
  unfold State.emitFrame State.writeFrame
  split_ifs <;> rfl

theorem emitSides_ignoresOutbuf (i : Nat) (lMix rMix : Int) : IgnoresOutbuf (·.emitSides i lMix rMix) :=
  ignoresOutbuf_of_with fun _ _ => emitFrame_ignoresOutbuf i _ _ (noteSat_ignoresOutbuf _ rfl)

theorem stageOutput_ignoresOutbuf (i : Nat) : IgnoresOutbuf (·.stageOutput i) :=
  ignoresOutbuf_of_with fun s m => by
    rw [stageOutput_eq_emitSides, stageOutput_eq_emitSides]
    exact emitSides_ignoresOutbuf i _ _ (advanceRamp_ignoresOutbuf rfl)

theorem renderFrame_ignoresOutbuf (i : Nat) : IgnoresOutbuf (·.renderFrame i) := fun _ _ h =>
  stageOutput_ignoresOutbuf i (stageChannels_ignoresOutbuf (inputsReady_ignoresOutbuf h))

theorem renderFrom_ignoresOutbuf (i n : Nat) : IgnoresOutbuf (·.renderFrom i n) := by
  induction n generalizing i with
  | zero => exact fun _ _ h => h
  | succ n ih => exact fun _ _ h => ih (i + 1) (renderFrame_ignoresOutbuf i h)

/-! ### The commands -/

theorem clearStatus_ignoresOutbuf (mask : Word) : IgnoresOutbuf (·.clearStatus mask) := by
  refine ignoresOutbuf_of_with fun s m => ?_
  dsimp only [State.clearStatus]
  split_ifs <;> rfl

theorem writeSampleRate_ignoresOutbuf (rate : Word) : IgnoresOutbuf (·.writeSampleRate rate) := by
  have rated : IgnoresOutbuf fun s => { s with sampleRate := rate } := ignoresOutbuf_of_with fun _ _ => rfl
  have measured : IgnoresOutbuf fun s => { s with rampLen := rampLength s.rampTime s.sampleRate } :=
    ignoresOutbuf_of_with fun _ _ => rfl
  exact fun _ _ h => measured (forUnits_ignoresOutbuf recompute_ignoresOutbuf (rated h))

theorem writeOscFreq_ignoresOutbuf (n : Fin Config.nosc) (a : Word) : IgnoresOutbuf (·.writeOscFreq n a) :=
  fun _ _ h => recompute_ignoresOutbuf n (modifyOsc_ignoresOutbuf n _ h)

theorem startRamp_ignoresOutbuf (target : Word) : IgnoresOutbuf (·.startRamp target) :=
  ignoresOutbuf_of_with fun _ _ => ite_sameRegisters rfl rfl

/-- Both outcomes are next states, with the same registers. -/
def AgreeOnRegisters (r r' : Result) : Prop := ∃ t t', r = .next t ∧ r' = .next t' ∧ SameRegisters t t'

theorem agree_next (h : SameRegisters s t) : AgreeOnRegisters (.next s) (.next t) := ⟨s, t, rfl, rfl, h⟩

theorem withArg_agree {legal : Bool} {h : Word} {done done' : State} (hst : SameRegisters s t)
    (hdone : SameRegisters done done') :
    AgreeOnRegisters (withArg legal h s done) (withArg legal h t done') :=
  agree_next (ite_sameRegisters hdone (cmdError_ignoresOutbuf .arg h hst))

theorem withUnit_agree {limit : Nat} {h : Word} {unit : Byte} {k k' : Fin limit → Result}
    (hst : SameRegisters s t) (hk : ∀ n, AgreeOnRegisters (k n) (k' n)) :
    AgreeOnRegisters (withUnit limit h unit s k) (withUnit limit h unit t k') := by
  unfold withUnit
  split
  · exact hk _
  · exact agree_next (cmdError_ignoresOutbuf .unit h hst)

theorem withSub_agree {nsub : Nat} {h : Word} {sub : Byte} {k k' : Fin nsub → Result}
    (hst : SameRegisters s t) (hk : ∀ n, AgreeOnRegisters (k n) (k' n)) :
    AgreeOnRegisters (withSub nsub h sub s k) (withSub nsub h sub t k') := by
  unfold withSub
  split
  · exact hk _
  · exact agree_next (cmdError_ignoresOutbuf .sub h hst)

/-- Every command, whatever OUTBUF holds. Beside the commands with an operation of their own, the groups are
those that write one register of an oscillator, of a channel and of an interpolator, by the checks of R86
that they make. -/
theorem exec_agree (i : Instr) (h : SameRegisters s t) : AgreeOnRegisters (exec i s) (exec i t) := by
  obtain ⟨m, rfl⟩ := sameRegisters_iff.1 h
  cases i with
  | nop => exact agree_next h
  | reset | rampSetTime | rampSetValue => exact agree_next rfl
  | setSampleRate => exact withArg_agree h (writeSampleRate_ignoresOutbuf _ h)
  | setMaxBlock => exact withArg_agree h rfl
  | render => exact withArg_agree h (renderFrom_ignoresOutbuf 0 _ h)
  | clearStatus => exact withArg_agree h (clearStatus_ignoresOutbuf _ h)
  | rampSetTarget => exact agree_next (startRamp_ignoresOutbuf _ h)
  | oscSetFreq unit => exact withUnit_agree h fun n => agree_next (writeOscFreq_ignoresOutbuf n _ h)
  | oscStep unit => exact withUnit_agree h fun n => agree_next (advance_ignoresOutbuf n h)
  | oscTick unit =>
    exact withUnit_agree h fun n => agree_next (modifyOsc_ignoresOutbuf n _ (advance_ignoresOutbuf n h))
  | oscSetPw unit | oscSetFmul unit | oscSetPoff unit | oscSetPhase unit =>
    exact withUnit_agree h fun n => agree_next (modifyOsc_ignoresOutbuf n _ h)
  | oscSetWave unit | oscSetMode unit | oscEnable unit =>
    exact withUnit_agree h fun n => withArg_agree h (modifyOsc_ignoresOutbuf n _ h)
  | chSetOffset unit | chSetClip unit | chClearHist unit | chSetDry unit | chSetWet unit | chSetGain unit
  | chSetPan unit =>
    exact withUnit_agree h fun c => agree_next (modifyCh_ignoresOutbuf c _ h)
  | chEnable unit | chSetFlags unit =>
    exact withUnit_agree h fun c => withArg_agree h (modifyCh_ignoresOutbuf c _ h)
  | chSetTapGain unit sub | chSetCoef unit sub =>
    dsimp only [exec, execChSetTapGain, execChSetCoef]
    refine withUnit_agree h fun c => ?_
    exact withSub_agree h fun _ => agree_next (modifyCh_ignoresOutbuf c _ h)
  | chSetTapSrc unit sub =>
    dsimp only [exec, execChSetTapSrc]
    refine withUnit_agree h fun c => ?_
    exact withSub_agree h fun _ => withArg_agree h (modifyCh_ignoresOutbuf c _ h)
  | ipSetMin unit | ipSetMax unit =>
    exact withUnit_agree h fun k => agree_next (modifyIp_ignoresOutbuf k _ h)
  | ipEnable unit | ipSetSrc unit | ipSetDest unit =>
    exact withUnit_agree h fun k => withArg_agree h (modifyIp_ignoresOutbuf k _ h)

end Sys2Proof.Machine

open Sys2Proof Sys2Proof.Machine

/-- Settles O58: both runs of the command complete, with the same registers. -/
theorem commandsNeverReadOutbuf : Obligations.CommandsNeverReadOutbuf := by
  intro i s t t' m ht ht'
  obtain ⟨u, u', hu, hu', same⟩ := exec_agree i (s := s) (t := { s with outbuf := m }) rfl
  rw [ht] at hu
  rw [ht'] at hu'
  cases hu
  cases hu'
  exact same
end
section
/-! PROOF. The header of a command (30_encoding.md): decoding and encoding are inverse (R83, R84, R88; O1, O2,
O3), a row's mask and match (R89; O4), the order of the checks (R86, R180; O5), and the bus writes of an
assembled line (R96; O15). -/

namespace Sys2Proof.Machine

/-! ### The fields of a header (R84) -/

theorem headerOpc_toNat (h : Word) : (headerOpc h).toNat = headerField h 24 := by
  simp [headerOpc, headerField, Nat.shiftRight_eq_div_pow]

theorem headerUnit_toNat (h : Word) : (headerUnit h).toNat = headerField h 16 := by
  simp [headerUnit, headerField, Nat.shiftRight_eq_div_pow]

theorem headerSub_toNat (h : Word) : (headerSub h).toNat = headerField h 8 := by
  simp [headerSub, headerField, Nat.shiftRight_eq_div_pow]

theorem headerRsvd_toNat (h : Word) : (headerRsvd h).toNat = headerField h 0 := by
  simp [headerRsvd, headerField]

/-- The top field is all that is left above bit 24. -/
theorem headerField_opc (h : Word) : headerField h 24 = h.toNat / 2 ^ 24 :=
  Nat.mod_eq_of_lt (Nat.div_lt_of_lt_mul h.isLt)

/-- A byte is 0 where it is 0 as a number. -/
theorem byte_eq_zero_iff (b : Byte) : b = 0 ↔ b.toNat = 0 := BitVec.toNat_inj.symm

/-- The four fields determine a word. -/
theorem eq_header_iff {w : Word} {o u t : Byte} :
    w = header o u t ↔ headerOpc w = o ∧ headerUnit w = u ∧ headerSub w = t ∧ headerRsvd w = 0 := by
  constructor
  · rintro rfl
    exact ⟨headerOpc_header o u t, headerUnit_header o u t, headerSub_header o u t,
      headerRsvd_header o u t⟩
  · rintro ⟨rfl, rfl, rfl, hrsvd⟩
    exact (header_of_fields w hrsvd).symm

theorem bytesWord_wordBytes (w : Word) : bytesWord (wordBytes w) = some w :=
  congrArg some (append_extractLsb' w)

theorem decodeBytes_wordBytes (w : Word) : decodeBytes (wordBytes w) = some (decode w) := by
  rw [decodeBytes, bytesWord_wordBytes, Option.map_some]

/-! ### The rows of the opcode map (R88, R90) -/

/-- R90's list is what the opcode map leaves out. -/
theorem opRow_eq_none_iff (o : Byte) : opRow o = none ↔ illegalOpcode o.toNat := by
  unfold opRow
  split
  case h_37 =>
    refine iff_of_true rfl ?_
    unfold illegalOpcode
    simp only [imp_false] at *
    omega
  all_goals next ho => rw [ho]; simp [illegalOpcode]

/-- R87: a row's class is its opcode's range, and its nsub is that of the opcode. -/
theorem opRow_columns {o : Byte} {row : OpRow} (h : opRow o = some row) :
    (row.cls = .G ↔ o.toNat < 0x10) ∧ row.nsub = subCount o.toNat := by
  unfold opRow at h
  split at h <;> cases h
  all_goals next ho => rw [ho]; decide

/-- Class G has no SUB (R88). -/
theorem opRow_nsub_of_global {o : Byte} {row : OpRow} (h : opRow o = some row) (hG : row.cls = .G) :
    row.nsub = 0 := by
  obtain ⟨hcls, hnsub⟩ := opRow_columns h
  have := hcls.1 hG
  rw [hnsub, subCount, if_neg (by omega), if_neg (by omega)]

theorem limit_eq_unitLimit (i : Instr) : i.cls.limit = unitLimit i.opc.toNat := by cases i <;> rfl

theorem nsub_eq_subCount (i : Instr) : i.nsub = subCount i.opc.toNat := by cases i <;> rfl

/-! ### Decoding, by the row (R86) -/

/-- A header of row `row` that has the fields which the row fixes at 0. -/
def MeetsRow (row : OpRow) (h : Word) : Prop :=
  headerRsvd h = 0 ∧ (row.cls = .G → headerUnit h = 0) ∧ (row.nsub = 0 → headerSub h = 0)

theorem decode_of_row {h : Word} {row : OpRow} (hrow : opRow (headerOpc h) = some row) (hz : MeetsRow row h) :
    decode h = .ok (row.build (headerUnit h) (headerSub h)) := by
  obtain ⟨hrsvd, hunit, hsub⟩ := hz
  have unitOk : ¬(row.cls = .G ∧ headerUnit h ≠ 0) := fun ⟨hG, hne⟩ => hne (hunit hG)
  have subOk : ¬(row.nsub = 0 ∧ headerSub h ≠ 0) := fun ⟨h0, hne⟩ => hne (hsub h0)
  simp only [decode, hrow]
  rw [if_neg (not_not.2 hrsvd), if_neg unitOk, if_neg subOk]

theorem decode_of_not_meetsRow {h : Word} {row : OpRow} (hrow : opRow (headerOpc h) = some row)
    (hz : ¬MeetsRow row h) : decode h = .error .rsvd := by
  simp only [decode, hrow]
  split_ifs with hrsvd hunit hsub
  · rfl
  · rfl
  · rfl
  · exact absurd ⟨not_not.1 hrsvd, fun hG => not_not.1 fun hne => hunit ⟨hG, hne⟩,
      fun h0 => not_not.1 fun hne => hsub ⟨h0, hne⟩⟩ hz

theorem decode_of_no_row {h : Word} (hrow : opRow (headerOpc h) = none) : decode h = .error .opcode := by
  simp only [decode, hrow]

/-- The fields of a header that decodes are its command's (R84). -/
theorem decode_fields {h : Word} {i : Instr} (hd : decode h = .ok i) :
    i.opc = headerOpc h ∧ i.unit = headerUnit h ∧ i.sub = headerSub h ∧ headerRsvd h = 0 := by
  have henc := eq_header_iff.1 (encode_of_decode hd).symm
  obtain ⟨hopc, hunit, hsub, hrsvd⟩ := henc
  exact ⟨hopc.symm, hunit.symm, hsub.symm, hrsvd⟩

/-! ### The mask and the match (R89) -/

/-- The match of an opcode is its header with UNIT and SUB 0. -/
theorem match_eq_header (o : Byte) : (o.setWidth 32 : Word) <<< 24 = header o 0 0 := by
  apply BitVec.eq_of_getLsbD_eq
  intro j hj
  rw [getLsbD_header, BitVec.getLsbD_shiftLeft, BitVec.getLsbD_setWidth]
  by_cases hlow : j < 24
  · simp [hlow]
  · simp [hlow, hj, show ¬j < 8 by omega, show ¬j < 16 by omega, show j - 24 < 32 by omega]

/-- A masked header, field by field. -/
theorem and_eq_header_iff {h m : Word} {o u t : Byte} :
    h &&& m = header o u t ↔
      headerOpc h &&& headerOpc m = o ∧ headerUnit h &&& headerUnit m = u ∧
        headerSub h &&& headerSub m = t ∧ headerRsvd h &&& headerRsvd m = 0 := by
  simp only [eq_header_iff, headerOpc, headerUnit, headerSub, headerRsvd, BitVec.extractLsb'_and]

theorem byte_and_ones (b : Byte) : b &&& 0xFF = b := BitVec.and_allOnes

theorem byte_and_zero (b : Byte) : b &&& 0 = 0 := BitVec.and_zero

/-- A row's mask keeps OPC and the fields that the row fixes at 0. -/
theorem and_rowMask_eq_match_iff {h : Word} {o : Byte} {row : OpRow} (hrow : opRow o = some row) :
    h &&& rowMask row = (o.setWidth 32 : Word) <<< 24 ↔ headerOpc h = o ∧ MeetsRow row h := by
  rw [match_eq_header, and_eq_header_iff, rowMask, MeetsRow]
  split_ifs with hG h0
  · have h0 := opRow_nsub_of_global hrow hG
    change headerOpc h &&& 0xFF = o ∧ headerUnit h &&& 0xFF = 0 ∧ headerSub h &&& 0xFF = 0 ∧
      headerRsvd h &&& 0xFF = 0 ↔ _
    simp only [byte_and_ones, hG, h0, forall_const]
    tauto
  · change headerOpc h &&& 0xFF = o ∧ headerUnit h &&& 0 = 0 ∧ headerSub h &&& 0xFF = 0 ∧
      headerRsvd h &&& 0xFF = 0 ↔ _
    simp only [byte_and_ones, byte_and_zero, hG, h0, forall_const, false_implies, true_and]
    tauto
  · change headerOpc h &&& 0xFF = o ∧ headerUnit h &&& 0 = 0 ∧ headerSub h &&& 0 = 0 ∧
      headerRsvd h &&& 0xFF = 0 ↔ _
    simp only [byte_and_ones, byte_and_zero, hG, h0, false_implies, true_and, and_true]

/-! ### The decoder's checks in the numbers of R86 -/

/-- The header has a field that must be 0 and is not (R84). -/
def RsvdBad (h : Word) : Prop :=
  headerField h 0 ≠ 0 ∨ (headerField h 24 < 0x10 ∧ headerField h 16 ≠ 0) ∨
    (subCount (headerField h 24) = 0 ∧ headerField h 8 ≠ 0)

theorem not_rsvdBad_iff {h : Word} {row : OpRow} (hrow : opRow (headerOpc h) = some row) :
    ¬RsvdBad h ↔ MeetsRow row h := by
  obtain ⟨hcls, hnsub⟩ := opRow_columns hrow
  simp only [RsvdBad, MeetsRow, hcls, hnsub, byte_eq_zero_iff, headerOpc_toNat, headerUnit_toNat,
    headerSub_toNat, headerRsvd_toNat]
  tauto

theorem exists_row_of_legalOpcode {h : Word} (hlegal : ¬illegalOpcode (headerField h 24)) :
    ∃ row, opRow (headerOpc h) = some row := by
  rwa [← Option.ne_none_iff_exists', ne_eq, opRow_eq_none_iff, headerOpc_toNat]

theorem decode_of_illegalOpcode {h : Word} (hill : illegalOpcode (headerField h 24)) :
    decode h = .error .opcode :=
  decode_of_no_row ((opRow_eq_none_iff _).2 (by rwa [headerOpc_toNat]))

theorem decode_of_rsvdBad {h : Word} (hlegal : ¬illegalOpcode (headerField h 24)) (hbad : RsvdBad h) :
    decode h = .error .rsvd := by
  obtain ⟨row, hrow⟩ := exists_row_of_legalOpcode hlegal
  exact decode_of_not_meetsRow hrow fun hz => (not_rsvdBad_iff hrow).2 hz hbad

/-- A header that passes the decoder's checks is the encoding of a command with the header's fields. -/
theorem exists_decode {h : Word} (hlegal : ¬illegalOpcode (headerField h 24)) (hrsvd : ¬RsvdBad h) :
    ∃ i, decode h = .ok i ∧ encode i = h ∧ i.opc.toNat = headerField h 24 ∧
      i.unit.toNat = headerField h 16 ∧ i.sub.toNat = headerField h 8 := by
  obtain ⟨row, hrow⟩ := exists_row_of_legalOpcode hlegal
  have hd := decode_of_row hrow ((not_rsvdBad_iff hrow).1 hrsvd)
  obtain ⟨hopc, hunit, hsub, -⟩ := decode_fields hd
  exact ⟨_, hd, encode_of_decode hd, by rw [hopc, headerOpc_toNat], by rw [hunit, headerUnit_toNat],
    by rw [hsub, headerSub_toNat]⟩

/-! ### The "ARG legal" column (R88), bit fields as numbers -/

/-- A field of a word is 0 where the word, as a number, has no remainder in it. -/
theorem extractLsb'_eq_zero_iff (a : Word) (lo len : Nat) :
    a.extractLsb' lo len = 0 ↔ a.toNat / 2 ^ lo % 2 ^ len = 0 := by
  rw [← BitVec.toNat_inj, BitVec.extractLsb'_toNat, Nat.shiftRight_eq_div_pow, BitVec.ofNat_eq_ofNat,
    BitVec.toNat_ofNat, Nat.zero_mod]

theorem high_bits_eq_zero_iff (a : Word) : a.extractLsb' 3 29 = 0 ↔ a.toNat < 8 := by
  have := a.isLt
  rw [extractLsb'_eq_zero_iff]
  omega

theorem modeLegal_iff (a : Word) : modeLegal a = true ↔ a.toNat < 8 ∧ a.toNat % 4 ≠ 3 := by
  have hmode : a.extractLsb' 0 2 = 3 ↔ a.toNat % 4 = 3 := by
    rw [← BitVec.toNat_inj, BitVec.extractLsb'_toNat]; rfl
  simp only [modeLegal, Bool.and_eq_true, beq_iff_eq, bne_iff_ne, ne_eq, high_bits_eq_zero_iff, hmode]

theorem flagsLegal_iff (a : Word) : flagsLegal a = true ↔ a.toNat < 8 := by
  rw [flagsLegal, beq_iff_eq, high_bits_eq_zero_iff]

theorem extractLsb'_eq_zero_iff_bits (a : Word) (lo len : Nat) :
    a.extractLsb' lo len = 0 ↔ ∀ j, lo ≤ j → j < lo + len → a.getLsbD j = false := by
  constructor
  · intro h j hlo hhi
    have hbit := congrArg (fun v => v.getLsbD (j - lo)) h
    simpa [BitVec.getLsbD_extractLsb', show j - lo < len by omega, Nat.add_sub_cancel' hlo] using hbit
  · intro h
    ext j hj
    simpa using h (lo + j) (by omega) (by omega)

/-- The bits that a masked word must not have. -/
theorem and_eq_zero_iff_bits (a m : Word) :
    a &&& m = 0 ↔ ∀ j < 32, m.getLsbD j = true → a.getLsbD j = false := by
  constructor
  · intro h j _ hm
    have hbit := congrArg (fun v => v.getLsbD j) h
    simpa [BitVec.getLsbD_and, hm] using hbit
  · intro h
    apply BitVec.eq_of_getLsbD_eq
    intro j hj
    cases hm : m.getLsbD j <;> simp [hm, h j hj]

/-- The bits that CLEAR_STATUS does not take are the two reserved fields of its ARG. -/
theorem clearStatusLegal_iff (a : Word) : clearStatusLegal a = true ↔ a &&& 0xFFFFFCFE = 0 := by
  have maskBit : ∀ j < 32, (0xFFFFFCFE : Word).getLsbD j = true ↔ 10 ≤ j ∨ (1 ≤ j ∧ j < 8) := by
    decide
  simp only [clearStatusLegal, Bool.and_eq_true, beq_iff_eq, extractLsb'_eq_zero_iff_bits,
    and_eq_zero_iff_bits]
  constructor
  · rintro ⟨high, low⟩ j hj hm
    rcases (maskBit j hj).1 hm with h10 | ⟨h1, h8⟩
    · exact high j h10 hj
    · exact low j h1 h8
  · intro h
    exact ⟨fun j h10 hj => h j hj ((maskBit j hj).2 (.inl h10)),
      fun j h1 h8 => h j (by omega) ((maskBit j (by omega)).2 (.inr ⟨h1, h8⟩))⟩

/-- R145's list, opcode by opcode. -/
theorem destLegal_iff (d : Word) : destLegal d = true ↔ validDestination d := by
  simp only [destLegal, validDestination, Bool.or_eq_true, Bool.and_eq_true, beq_iff_eq, byte_eq_zero_iff,
    headerOpc_toNat, headerUnit_toNat, headerSub_toNat, headerRsvd_toNat]
  refine or_congr_right (and_congr_right fun _ => ?_)
  generalize headerField d 24 = o
  split
  case h_14 => simp_all
  all_goals
    simp only [Bool.and_eq_true, decide_eq_true_eq, beq_iff_eq, byte_eq_zero_iff, headerSub_toNat]
    simp [unitLimit]

/-! ### The checks that the commands make (R86) -/

/-- The check on ARG in a command's meaning: the "ARG legal" column of R88. -/
def argLegal (a maxBlock : Word) : Instr → Bool
  | .setSampleRate => sampleRateLegal a
  | .setMaxBlock => maxBlockLegal a
  | .render => renderLegal a maxBlock
  | .clearStatus => clearStatusLegal a
  | .oscSetWave _ => waveLegal a
  | .oscSetMode _ => modeLegal a
  | .oscEnable _ | .chEnable _ | .ipEnable _ => enableLegal a
  | .chSetTapSrc _ _ => tapSrcLegal a
  | .chSetFlags _ => flagsLegal a
  | .ipSetSrc _ => srcLegal a
  | .ipSetDest _ => destLegal a
  | _ => true

/-- The check that each row's command makes is the row's "ARG legal" entry. -/
theorem argLegal_iff (i : Instr) (a maxBlock : Word) :
    argLegal a maxBlock i = true ↔ argAllowed i.opc.toNat a maxBlock := by
  cases i <;>
    simp [argLegal, argAllowed, Instr.opc, sampleRateLegal, maxBlockLegal, renderLegal, clearStatusLegal_iff,
      waveLegal, modeLegal_iff, enableLegal, tapSrcLegal, flagsLegal_iff, srcLegal, destLegal_iff]

theorem wellFormed_iff (i : Instr) :
    i.wellFormed = true ↔ i.unit.toNat < i.cls.limit ∧ (i.nsub = 0 ∨ i.sub.toNat < i.nsub) := by
  simp only [Instr.wellFormed, Instr.unitOk, Instr.subOk, Bool.and_eq_true, Bool.or_eq_true, beq_iff_eq,
    decide_eq_true_eq]

variable {s : State} {i : Instr}

/-- A command of class G checks ARG alone. -/
theorem exec_global (hG : i.cls = .G) :
    ∃ done, exec i s = withArg (argLegal s.cmdArg s.maxBlock i) (encode i) s done := by
  cases i with
  | nop | setSampleRate | setMaxBlock | render | reset | clearStatus | rampSetTarget | rampSetTime
  | rampSetValue => exact ⟨_, rfl⟩
  | _ => cases hG

/-- A command without SUB checks UNIT, then ARG. -/
theorem exec_unit (hG : i.cls ≠ .G) (h0 : i.nsub = 0) :
    ∃ done : Fin i.cls.limit → State, exec i s =
      withUnit i.cls.limit (encode i) i.unit s fun n =>
        withArg (argLegal s.cmdArg s.maxBlock i) (encode i) s (done n) := by
  cases i with
  | nop | setSampleRate | setMaxBlock | render | reset | clearStatus | rampSetTarget | rampSetTime
  | rampSetValue => exact absurd rfl hG
  | chSetTapSrc | chSetTapGain | chSetCoef => cases h0
  | _ => dsimp only [exec]; exact ⟨_, rfl⟩

/-- A command with SUB checks UNIT, then SUB, then ARG. -/
theorem exec_unit_sub (h0 : i.nsub ≠ 0) :
    ∃ done : Fin i.cls.limit → Fin i.nsub → State, exec i s =
      withUnit i.cls.limit (encode i) i.unit s fun n =>
        withSub i.nsub (encode i) i.sub s fun t =>
          withArg (argLegal s.cmdArg s.maxBlock i) (encode i) s (done n t) := by
  cases i with
  | chSetTapSrc | chSetTapGain | chSetCoef => dsimp only [exec]; exact ⟨_, rfl⟩
  | _ => exact absurd rfl h0

/-- The check on UNIT comes first; class G has UNIT 0 and cannot fail it. -/
theorem exec_of_unit_bad (hu : ¬i.unit.toNat < i.cls.limit) :
    exec i s = .next (s.cmdError .unit (encode i)) := by
  have hG : i.cls ≠ .G := by
    intro hG
    obtain ⟨-, hunit, -⟩ := encodingMatches i
    rw [hG, hunit hG] at hu
    exact hu Nat.one_pos
  by_cases h0 : i.nsub = 0
  · obtain ⟨done, hexec⟩ := exec_unit (s := s) hG h0
    rw [hexec, withUnit_bad _ _ _ hu]
  · obtain ⟨done, hexec⟩ := exec_unit_sub (s := s) h0
    rw [hexec, withUnit_bad _ _ _ hu]

theorem exec_of_sub_bad (hu : i.unit.toNat < i.cls.limit) (h0 : i.nsub ≠ 0) (hs : ¬i.sub.toNat < i.nsub) :
    exec i s = .next (s.cmdError .sub (encode i)) := by
  obtain ⟨done, hexec⟩ := exec_unit_sub (s := s) h0
  rw [hexec, withUnit_ok _ _ _ hu, withSub_bad _ _ _ hs]

/-- Past the checks on UNIT and SUB, every command is its check on ARG. -/
theorem exec_of_wellFormed (hwf : i.wellFormed = true) :
    ∃ done, exec i s = withArg (argLegal s.cmdArg s.maxBlock i) (encode i) s done := by
  obtain ⟨hu, hs⟩ := (wellFormed_iff i).1 hwf
  by_cases hG : i.cls = .G
  · exact exec_global hG
  rcases hs with h0 | hs
  · obtain ⟨done, hexec⟩ := exec_unit (s := s) hG h0
    exact ⟨_, hexec.trans (withUnit_ok _ _ _ hu)⟩
  · obtain ⟨done, hexec⟩ := exec_unit_sub (s := s) (Nat.ne_zero_of_lt hs)
    exact ⟨_, hexec.trans ((withUnit_ok _ _ _ hu).trans (withSub_ok _ _ _ hs))⟩

theorem exec_of_arg_bad (hwf : i.wellFormed = true) (ha : argLegal s.cmdArg s.maxBlock i = false) :
    exec i s = .next (s.cmdError .arg (encode i)) := by
  obtain ⟨done, hexec⟩ := exec_of_wellFormed (s := s) hwf
  rw [hexec, ha]; rfl

/-! ### The checks on UNIT and SUB in the numbers of R86 -/

/-- UNIT and SUB of a header are in range where its command is well formed. -/
theorem wellFormed_iff_inRange (i : Instr) :
    i.wellFormed = true ↔
      ¬unitLimit i.opc.toNat ≤ i.unit.toNat ∧
        ¬(0 < subCount i.opc.toNat ∧ subCount i.opc.toNat ≤ i.sub.toNat) := by
  rw [wellFormed_iff, limit_eq_unitLimit, nsub_eq_subCount]
  omega

end Sys2Proof.Machine

open Sys2Proof Sys2Proof.Machine

/-- Settles O1: the header decodes by its row, and its bytes are the header's. -/
theorem decodeReadsEncodedCommand : Obligations.DecodeReadsEncodedCommand := by
  intro i
  have hd := decode_encode i
  exact ⟨hd, by rw [decodeBytes_wordBytes, hd]⟩

/-- Settles O2: the fields of the command that the decoder builds are the header's. -/
theorem encodeGivesBackHeader : Obligations.EncodeGivesBackHeader := by
  intro h i hd
  obtain ⟨hopc, hunit, hsub, hrsvd⟩ := decode_fields hd
  refine ⟨encode_of_decode hd, ?opc, ?unit, ?sub, ?rsvd⟩
  case opc => rw [hopc, headerOpc_toNat, headerField_opc]
  case unit => rw [hunit, headerUnit_toNat, headerField]
  case sub => rw [hsub, headerSub_toNat, headerField]
  case rsvd =>
    rw [byte_eq_zero_iff, headerRsvd_toNat, headerField, pow_zero, Nat.div_one] at hrsvd
    exact hrsvd

/-- Settles O4: both sides say that the header is of the row with opcode `o` and has the fields that the row
fixes at 0. -/
theorem maskAndMatchSelectRow : Obligations.MaskAndMatchSelectRow := by
  intro h o
  constructor
  · rintro ⟨i, hd, rfl⟩
    obtain ⟨row, hrow, hrsvd, hunit, hsub, -⟩ := decode_ok_row hd
    obtain ⟨hopc, -⟩ := decode_fields hd
    rw [← hopc] at hrow
    exact ⟨row, hrow, (and_rowMask_eq_match_iff hrow).2 ⟨hopc.symm, hrsvd, hunit, hsub⟩⟩
  · rintro ⟨row, hrow, hmatch⟩
    obtain ⟨rfl, hz⟩ := (and_rowMask_eq_match_iff hrow).1 hmatch
    have hd := decode_of_row hrow hz
    exact ⟨_, hd, (decode_fields hd).1⟩

/-- Settles O5, check by check: the decoder makes the first two, and the command that a header which passes
them decodes to makes the others. -/
theorem executeChecksInOrder : Obligations.ExecuteChecksInOrder := by
  intro s h
  constructor
  · intro e he
    cases e with
    | opcode => exact execute_of_error s (decode_of_illegalOpcode he)
    | rsvd =>
      obtain ⟨hlegal, hbad⟩ := he
      exact execute_of_error s (decode_of_rsvdBad hlegal hbad)
    | unit =>
      obtain ⟨hlegal, hrsvd, hunit⟩ := he
      obtain ⟨i, hd, rfl, hopc, hu, -⟩ := exists_decode hlegal hrsvd
      rw [← hopc, ← hu, ← limit_eq_unitLimit] at hunit
      exact (execute_of_decode s hd).trans (exec_of_unit_bad (not_lt.2 hunit))
    | sub =>
      obtain ⟨hlegal, hrsvd, hunit, h0, hsub⟩ := he
      obtain ⟨i, hd, rfl, hopc, hu, hs⟩ := exists_decode hlegal hrsvd
      rw [← hopc, ← hu, ← limit_eq_unitLimit] at hunit
      rw [← hopc, ← nsub_eq_subCount] at h0 hsub
      rw [← hs] at hsub
      exact (execute_of_decode s hd).trans (exec_of_sub_bad (not_le.1 hunit) h0.ne' (not_lt.2 hsub))
    | arg =>
      obtain ⟨hlegal, hrsvd, hunit, hsub, harg⟩ := he
      obtain ⟨i, hd, rfl, hopc, hu, hs⟩ := exists_decode hlegal hrsvd
      rw [← hopc, ← hu] at hunit
      rw [← hopc, ← hs] at hsub
      rw [← hopc, ← argLegal_iff, Bool.not_eq_true] at harg
      exact (execute_of_decode s hd).trans
        (exec_of_arg_bad ((wellFormed_iff_inRange i).2 ⟨hunit, hsub⟩) harg)
  · intro hpass
    have hlegal := hpass .opcode
    have hrsvd : ¬RsvdBad h := fun hbad => hpass .rsvd ⟨hlegal, hbad⟩
    obtain ⟨i, hd, -, hopc, hu, hs⟩ := exists_decode hlegal hrsvd
    have hunit : ¬unitLimit (headerField h 24) ≤ headerField h 16 :=
      fun hbad => hpass .unit ⟨hlegal, hrsvd, hbad⟩
    have hsub : ¬(0 < subCount (headerField h 24) ∧ subCount (headerField h 24) ≤ headerField h 8) :=
      fun hbad => hpass .sub ⟨hlegal, hrsvd, hunit, hbad⟩
    rw [← hopc, ← hu] at hunit
    rw [← hopc, ← hs] at hsub
    exact ⟨i, hd, (wellFormed_iff_inRange i).2 ⟨hunit, hsub⟩, execute_of_decode s hd⟩

/-- Settles O15: the access to CMD executes the header, after the one to CMD_ARG where there is one. -/
theorem assembledLineExecutes : Obligations.AssembledLineExecutes := by
  intro s i rest
  constructor
  · intro a hev
    refine ⟨{ s with
      events := .write .word cmdOffset (encode i) :: rest
      response := some .writeDone
      cmdArg := a }, ?arg, ?header⟩
    case arg =>
      exact (step_of_event hev).trans ((busWrite_word _ a (by decide) rfl).trans (memWrite_cmdArg _ a))
    case header => exact (step_of_headerWrite rfl).trans (execute_of_decode _ (decode_encode i))
  · intro hev
    exact (step_of_headerWrite hev).trans (execute_of_decode _ (decode_encode i))

/-- Settles O3: each header is the encoding of its command. -/
theorem specHeadersDecode : Obligations.SpecHeadersDecode :=
  ⟨decode_encode .nop, decode_encode .reset, decode_encode (.oscSetFmul 2),
    decode_encode (.chSetTapSrc 0 1), decode_encode (.chSetCoef 1 3), decode_encode (.ipSetSrc 0)⟩
end

section
/-! PROOF. The oscillator commands (R100 to R121): what each writes and that it writes nothing else (O29 to
O33), the wrap of one advance (R102; O34), the waveforms (R106 to R108; O35) and their ranges (R109; O36). -/

namespace Sys2Proof.Machine

variable (s : State)

/-! ### The frame of a change of one oscillator -/

/-- The offsets of an oscillator's registers in its group (R42). -/
def oscRegisters : List Nat := [0x00, 0x04, 0x08, 0x0C, 0x10, 0x14, 0x18, 0x1C]

theorem mem_oscRegisters {k : Nat} : k ∈ oscRegisters ↔ k < 0x20 ∧ k % 4 = 0 := by
  simp only [oscRegisters, List.mem_cons, List.not_mem_nil, or_false]
  omega

/-- A change of one oscillator: the listed registers read as the changed unit's, the others keep their
values. -/
theorem changesOnly_oscRegisters (n : Fin Config.nosc) {f : Osc → Osc} (ks : List Nat)
    (hk : ∀ k ∈ ks, k ∈ oscRegisters)
    (hf : ∀ k ∈ oscRegisters, k ∉ ks → (f s.osc[n]).read k = s.osc[n].read k) :
    ChangesOnly s (s.modifyOsc n f) (ks.map fun k => (oscOffset n k, (f s.osc[n]).read k)) := by
  have h := changesOnly_modifyOsc s n f (ks.map fun k => (k, (f s.osc[n]).read k))
    (by simpa using fun k hmem => (mem_oscRegisters.1 (hk k hmem)).1)
    fun k hlt h4 hp => hf k (mem_oscRegisters.2 ⟨hlt, h4⟩) fun hmem =>
      hp _ (List.mem_map_of_mem hmem) rfl
  rwa [List.map_map] at h

/-- The same change with a range condition noted after it (R100, R101). -/
theorem changesOnly_oscRegisters_noteRange (n : Fin Config.nosc) (b : Bool) {f : Osc → Osc} (ks : List Nat)
    (hk : ∀ k ∈ ks, k ∈ oscRegisters)
    (hf : ∀ k ∈ oscRegisters, k ∉ ks → (f s.osc[n]).read k = s.osc[n].read k) :
    ChangesOnly s ((s.modifyOsc n f).noteRange b)
      ((ks.map fun k => (oscOffset n k, (f s.osc[n]).read k)) ++
        [(0x010, flagged s.status 0x100 b)]) := by
  refine changesOnly_trans (changesOnly_oscRegisters s n ks hk hf) (changesOnly_noteRange _ b) ?_
  intro p hp
  obtain ⟨k, hmem, rfl⟩ := List.mem_map.1 hp
  have haligned := (mem_oscRegisters.1 (hk k hmem)).2
  simp only [List.mem_singleton, forall_eq, oscOffset]
  omega

/-- A change of CTRL alone. -/
theorem changesOnly_ctrl (n : Fin Config.nosc) (g : Word → Word) {v : Word} (hv : g s.osc[n].ctrl = v) :
    ChangesOnly s (s.modifyOsc n fun o => { o with ctrl := g o.ctrl }) [(oscOffset n 0x0C, v)] := by
  rw [← hv]
  exact changesOnly_oscRegisters s n [0x0C] (by decide) (by simp [oscRegisters, Osc.read])

/-! ### The waveforms (R105 to R108) and their ranges (R109) -/

theorem sineWave_range (q : Word) : -0x1000000 ≤ sineWave q ∧ sineWave q ≤ 0x1000000 :=
  (@Config.sineTable ⟨Config.sineWitness⟩).range q

theorem squareWave_of_le {q : Word} {pw : Int} (h : (q.toNat : Int) ≤ pw * 2 ^ 8) :
    squareWave q pw = 0x800000 := if_pos h

theorem squareWave_of_lt {q : Word} {pw : Int} (h : pw * 2 ^ 8 < (q.toNat : Int)) :
    squareWave q pw = -0x800000 := if_neg (not_le.2 h)

theorem squareWave_eq_half_iff (q : Word) (pw : Int) :
    squareWave q pw = 0x800000 ↔ (q.toNat : Int) ≤ pw * 2 ^ 8 := by
  refine ⟨fun h => ?_, squareWave_of_le⟩
  by_contra hlt
  rw [squareWave_of_lt (not_le.1 hlt)] at h
  omega

theorem sawWave_range (q : Word) : -0x800000 ≤ sawWave q ∧ sawWave q < 0x800000 := by
  have hq := q.isLt
  simp only [sawWave, fxHalf]
  omega

theorem triangleWave_range (q : Word) : -0x800000 ≤ triangleWave q ∧ triangleWave q ≤ 0 := by
  have hsaw := sawWave_range q
  simp only [triangleWave, fxHalf]
  omega

/-- Comparing the phase with the pulse width as reals is comparing the integers (R106). -/
theorem phase_le_pulseWidth_iff (q : Word) (pw : Int) :
    (q.toNat : ℚ) / 2 ^ 32 ≤ (pw : ℚ) / 2 ^ 24 ↔ (q.toNat : Int) ≤ pw * 2 ^ 8 := by
  rw [div_le_div_iff₀ (by positivity) (by positivity)]
  have scaled : (q.toNat : ℚ) * 2 ^ 24 ≤ (pw : ℚ) * 2 ^ 32 ↔ (q.toNat : Int) * 2 ^ 24 ≤ pw * 2 ^ 32 := by
    exact_mod_cast Iff.rfl
  rw [scaled]
  omega

/-- The saw on the reals (R108). -/
theorem sawWave_real (q : Word) :
    (sawWave q : ℚ) / 2 ^ 24 = ((q.toNat / 2 ^ 8 : Nat) : ℚ) / 2 ^ 24 - 1 / 2 := by
  simp only [sawWave, fxHalf, Int.cast_sub, Int.cast_natCast]
  norm_num
  ring

/-- The triangle on the reals: the saw folded at 0 (R107). -/
theorem triangleWave_real (q : Word) :
    (triangleWave q : ℚ) / 2 ^ 24 = |((q.toNat / 2 ^ 8 : Nat) : ℚ) / 2 ^ 24 - 1 / 2| - 1 / 2 := by
  rw [← sawWave_real, abs_div, triangleWave, fxHalf, Int.cast_sub, Int.natCast_natAbs, Int.cast_abs]
  norm_num
  ring

/-! ### The sample (R104) -/

theorem toNat_wave (o : Osc) : o.wave.toNat = o.ctrl.toNat % 4 := by
  rw [Osc.wave, BitVec.extractLsb'_toNat]; rfl

/-- The sample, by the waveform that CTRL.WAVE selects (R104). -/
theorem osc_sample_of_wave (o : Osc) :
    (o.wave = 0 → o.sample = sineWave o.lookupPhase) ∧
      (o.wave = 1 → o.sample = squareWave o.lookupPhase (fx o.pw)) ∧
      (o.wave = 2 → o.sample = triangleWave o.lookupPhase) ∧
      (o.wave = 3 → o.sample = sawWave o.lookupPhase) := by
  refine ⟨?_, ?_, ?_, ?_⟩ <;> intro h <;> rw [Osc.sample, h] <;> rfl

/-- The sample is the waveform with the number that CTRL.WAVE holds, at PHASE plus POFF (R104). -/
theorem osc_sample_eq_waveformValue (o : Osc) :
    o.sample = waveformValue (o.ctrl.toNat % 4) (o.phase + o.poff) o.pw.toInt := by
  have waves : ∀ w : BitVec 2, w = 0 ∨ w = 1 ∨ w = 2 ∨ w = 3 := by decide
  obtain ⟨hsine, hsquare, htriangle, hsaw⟩ := osc_sample_of_wave o
  rw [← toNat_wave]
  rcases waves o.wave with h | h | h | h
  · rw [hsine h, h]; rfl
  · rw [hsquare h, h]; rfl
  · rw [htriangle h, h]; simp [triangleWave, sawWave, waveformValue, Osc.lookupPhase, fxHalf]
  · rw [hsaw h, h]; simp [sawWave, waveformValue, Osc.lookupPhase, fxHalf]

/-- An evaluation's OUT holds the sample. -/
theorem fx_osc_evaluate_out (o : Osc) : fx o.evaluate.out = o.sample := by
  obtain ⟨hlo, hhi⟩ := osc_sample_range o
  exact fx_toFx ⟨by omega, by omega⟩

/-! ### The commands' next states -/

theorem phaseStep_eq_increment (o : Osc) : phaseStep o = o.increment := rfl

theorem outOfRange32_eq_decide (v : Int) : outOfRange32 v = decide (v < 0 ∨ 2 ^ 32 ≤ v) := by
  rw [outOfRange32, Bool.decide_or]; rfl

theorem mod32_natCast (q : Nat) : mod32 q = BitVec.ofNat 32 q := BitVec.ofInt_natCast 32 q

/-- The quotient of R100 is out of range where the frequency reaches the rate. -/
theorem outOfRange32_pincQuotient (freq : Word) {rate : Word} (hrate : rate.toNat ≠ 0) :
    outOfRange32 (pincQuotient freq rate) = decide (rate.toNat * 2 ^ 16 ≤ freq.toNat) := by
  have hq : 2 ^ 32 ≤ pincQuotient freq rate ↔ rate.toNat * 2 ^ 16 ≤ freq.toNat := by
    rw [pincQuotient, floorDiv, Nat.le_div_iff_mul_le (Nat.pos_of_ne_zero hrate)]
    omega
  rw [outOfRange32_eq_decide, decide_eq_decide]
  omega

/-- OSC_SET_FREQ's Pseudocode as one change of the oscillator, with the quotient's range noted (R100,
R112). -/
theorem writeOscFreq_eq (n : Fin Config.nosc) (a : Word) :
    s.writeOscFreq n a =
      (s.modifyOsc n fun o => { o with freq := a, pinc := mod32 (pincQuotient a s.sampleRate) }).noteRange
        (outOfRange32 (pincQuotient a s.sampleRate)) := by
  simp [State.writeOscFreq, State.recompute, State.modifyOsc]

/-- OSC_TICK's Pseudocode as one change of the oscillator, with the increment's range noted (R121). -/
theorem advance_evaluate_eq (n : Fin Config.nosc) :
    (s.advance n).evaluate n =
      (s.modifyOsc n fun o => o.advance.evaluate).noteRange (outOfRange32 s.osc[n].increment) := by
  simp [advance_eq, evaluate_eq, noteRange_flagged, State.modifyOsc]

/-- ARG legal: the command's own next state. -/
theorem withArg_legal {s : State} {legal : Bool} {h : Word} {done : State} (hl : legal = true) :
    withArg legal h s done = .next done := by
  rw [withArg, if_pos hl]

variable {u : Byte}

theorem exec_oscSetFreq (hu : u.toNat < Config.nosc) :
    exec (.oscSetFreq u) s = .next (s.writeOscFreq ⟨u.toNat, hu⟩ s.cmdArg) := by
  rw [exec, execOscSetFreq, withUnit_ok s _ _ hu]

theorem exec_oscSetPw (hu : u.toNat < Config.nosc) :
    exec (.oscSetPw u) s = .next (s.writeOscPw ⟨u.toNat, hu⟩ s.cmdArg) := by
  rw [exec, execOscSetPw, withUnit_ok s _ _ hu]

theorem exec_oscSetFmul (hu : u.toNat < Config.nosc) :
    exec (.oscSetFmul u) s = .next (s.writeOscFmul ⟨u.toNat, hu⟩ s.cmdArg) := by
  rw [exec, execOscSetFmul, withUnit_ok s _ _ hu]

theorem exec_oscSetPoff (hu : u.toNat < Config.nosc) :
    exec (.oscSetPoff u) s = .next (s.writeOscPoff ⟨u.toNat, hu⟩ s.cmdArg) := by
  rw [exec, execOscSetPoff, withUnit_ok s _ _ hu]

theorem exec_oscSetPhase (hu : u.toNat < Config.nosc) :
    exec (.oscSetPhase u) s = .next (s.writeOscPhase ⟨u.toNat, hu⟩ s.cmdArg) := by
  rw [exec, execOscSetPhase, withUnit_ok s _ _ hu]

theorem exec_oscSetWave (hu : u.toNat < Config.nosc) (ha : s.cmdArg.toNat ≤ 3) :
    exec (.oscSetWave u) s = .next (s.writeOscWave ⟨u.toNat, hu⟩ s.cmdArg) := by
  have hlegal : waveLegal s.cmdArg = true := decide_eq_true ha
  rw [exec, execOscSetWave, withUnit_ok s _ _ hu, withArg_legal hlegal]

theorem exec_oscSetMode (hu : u.toNat < Config.nosc) (ha : s.cmdArg.toNat < 8)
    (hmode : s.cmdArg.toNat % 4 ≠ 3) :
    exec (.oscSetMode u) s = .next (s.writeOscMode ⟨u.toNat, hu⟩ s.cmdArg) := by
  have hlegal : modeLegal s.cmdArg = true := (modeLegal_iff _).2 ⟨ha, hmode⟩
  rw [exec, execOscSetMode, withUnit_ok s _ _ hu, withArg_legal hlegal]

theorem exec_oscEnable (hu : u.toNat < Config.nosc) (ha : s.cmdArg.toNat ≤ 1) :
    exec (.oscEnable u) s = .next (s.writeOscEnable ⟨u.toNat, hu⟩ s.cmdArg) := by
  have hlegal : enableLegal s.cmdArg = true := decide_eq_true ha
  rw [exec, execOscEnable, withUnit_ok s _ _ hu, withArg_legal hlegal]

theorem exec_oscStep (hu : u.toNat < Config.nosc) :
    exec (.oscStep u) s = .next (s.advance ⟨u.toNat, hu⟩) := by
  rw [exec, execOscStep, withUnit_ok s _ _ hu]

theorem exec_oscTick (hu : u.toNat < Config.nosc) :
    exec (.oscTick u) s = .next ((s.advance ⟨u.toNat, hu⟩).evaluate ⟨u.toNat, hu⟩) := by
  rw [exec, execOscTick, withUnit_ok s _ _ hu]

/-! ### Fields of CTRL (R46) -/

/-- Two neighbouring fields taken from neighbouring bits are one field. -/
theorem setBits_setBits_adjacent (w a : Word) (lo m k : Nat) :
    setBits (setBits w lo (a.extractLsb' 0 m)) (lo + m) (a.extractLsb' m k) =
      setBits w lo (a.extractLsb' 0 (m + k)) := by
  apply BitVec.eq_of_getLsbD_eq
  intro i hi
  simp only [getLsbD_setBits, BitVec.getLsbD_extractLsb', Nat.zero_add]
  by_cases hlow : i < lo
  · simp [show ¬lo + m ≤ i by omega, show ¬lo ≤ i by omega]
  by_cases hmid : i < lo + m
  · simp [show ¬lo + m ≤ i by omega, show lo ≤ i by omega, hmid, hi, show i < lo + (m + k) by omega,
      show i - lo < m by omega, show i - lo < m + k by omega]
  by_cases htop : i < lo + m + k
  · simp [show lo + m ≤ i by omega, show lo ≤ i by omega, hi, htop, show i < lo + (m + k) by omega,
      show i - (lo + m) < k by omega, show i - lo < m + k by omega,
      show m + (i - (lo + m)) = i - lo by omega]
  · simp [hmid, htop, show ¬i < lo + (m + k) by omega]

/-- A field that takes all of an operand: the operand shifted to the field (R19). -/
theorem setBits_operand (w : Word) {a : Word} (lo : Nat) {len : Nat} (ha : a.toNat < 2 ^ len) :
    setBits w lo (a.extractLsb' 0 len) =
      w &&& ~~~((BitVec.allOnes len).setWidth 32 <<< lo) ||| a <<< lo := by
  have hwhole : (a.extractLsb' 0 len).setWidth 32 = a := by
    apply BitVec.eq_of_toNat_eq
    rw [BitVec.toNat_setWidth, BitVec.extractLsb'_toNat, Nat.shiftRight_zero, Nat.mod_eq_of_lt ha,
      Nat.mod_eq_of_lt a.isLt]
  rw [setBits, hwhole]

/-! ### The advance (R101, R102) -/

theorem advance_status (n : Fin Config.nosc) :
    (s.advance n).status = flagged s.status 0x100 (outOfRange32 s.osc[n].increment) := by
  rw [advance_eq]

theorem advance_osc_same (n : Fin Config.nosc) : (s.advance n).osc[n] = s.osc[n].advance := by
  simp [advance_eq]

/-- An increment inside one cycle sets no flag. -/
theorem advance_status_of_lt {n : Fin Config.nosc} {d : Nat} (hd : s.osc[n].increment = d)
    (hlt : d < 2 ^ 32) : (s.advance n).status = s.status := by
  have hin : ¬((d : Int) < 0 ∨ 2 ^ 32 ≤ (d : Int)) := by omega
  rw [advance_status, hd, outOfRange32_eq_decide, decide_eq_false hin, flagged_false]

/-- An increment outside one cycle sets STATUS.RANGE. -/
theorem advance_rangeFlag {n : Fin Config.nosc} (h : outsideCycle s.osc[n].increment) :
    (s.advance n).rangeFlag = true := by
  have hset : outOfRange32 s.osc[n].increment = true := by
    rw [outOfRange32_eq_decide]; exact decide_eq_true h
  rw [State.rangeFlag, advance_status, hset]
  simp [flagged]

/-- An advance by a natural increment is the sum modulo one cycle. -/
theorem osc_advance_phase_toNat {o : Osc} {d : Nat} (hd : o.increment = d) :
    o.advance.phase.toNat = (o.phase.toNat + d) % 2 ^ 32 := by
  have h : (o.advance.phase.toNat : Int) = (o.phase.toNat + o.increment) % 2 ^ 32 := toNat_mod32 _
  rw [hd] at h
  omega

/-- R102: for an increment below one cycle the modulus is at most one subtraction. -/
theorem osc_advance_phase_of_lt {o : Osc} {d : Nat} (hd : o.increment = d) (hlt : d < 2 ^ 32) :
    o.advance.phase.toNat =
      if o.phase.toNat + d < 2 ^ 32 then o.phase.toNat + d else o.phase.toNat + d - 2 ^ 32 := by
  have hp := o.phase.isLt
  rw [osc_advance_phase_toNat hd]
  split <;> omega

/-! ### The unit and the flag after OSC_TICK (R121) -/

theorem advance_evaluate_osc_same (n : Fin Config.nosc) :
    ((s.advance n).evaluate n).osc[n] = s.osc[n].advance.evaluate := by
  rw [State.evaluate, modifyOsc_osc_same, advance_osc_same]

theorem advance_evaluate_satFlag (n : Fin Config.nosc) :
    ((s.advance n).evaluate n).satFlag = s.satFlag := by
  have hstatus : ((s.advance n).evaluate n).status =
      flagged s.status 0x100 (outOfRange32 s.osc[n].increment) := advance_status s n
  rw [State.satFlag, hstatus, getLsbD_nine_flagged_range, State.satFlag]

end Sys2Proof.Machine

open Sys2Proof Sys2Proof.Machine

/-- Settles O29: FREQ and PINC change, and the quotient is out of range where the frequency reaches the
rate. -/
theorem oscSetFreqEffect : Obligations.OscSetFreqEffect := by
  intro s u hu hrate
  refine ⟨_, exec_oscSetFreq s hu, ?_⟩
  rw [writeOscFreq_eq, mod32_natCast, outOfRange32_pincQuotient _ hrate]
  exact changesOnly_oscRegisters_noteRange s ⟨u.toNat, hu⟩ _ [0x00, 0x04] (by decide)
    (by simp [oscRegisters, Osc.read])

/-- Settles O30: each of the four is a change of one register. -/
theorem oscParameterWrites : Obligations.OscParameterWrites := by
  intro s u hu
  refine ⟨⟨_, exec_oscSetPw s hu, ?pw⟩, ⟨_, exec_oscSetFmul s hu, ?fmul⟩, ⟨_, exec_oscSetPoff s hu, ?poff⟩,
    ⟨_, exec_oscSetPhase s hu, ?phase⟩⟩
  case pw => exact changesOnly_oscRegisters s _ [0x10] (by decide) (by simp [oscRegisters, Osc.read])
  case fmul => exact changesOnly_oscRegisters s _ [0x14] (by decide) (by simp [oscRegisters, Osc.read])
  case poff => exact changesOnly_oscRegisters s _ [0x18] (by decide) (by simp [oscRegisters, Osc.read])
  case phase => exact changesOnly_oscRegisters s _ [0x08] (by decide) (by simp [oscRegisters, Osc.read])

/-- Settles O31: each is a change of CTRL, in one field; MODE and DBL lie side by side. -/
theorem oscControlWrites : Obligations.OscControlWrites := by
  intro s u hu
  refine ⟨fun ha => ⟨_, exec_oscSetWave s hu ha, ?wave⟩, fun ha hm => ⟨_, exec_oscSetMode s hu ha hm, ?mode⟩,
    fun ha => ⟨_, exec_oscEnable s hu ha, ?enable⟩⟩
  case wave =>
    refine changesOnly_ctrl s _ (setBits · 0 (s.cmdArg.extractLsb' 0 2)) ?_
    have hshift : s.cmdArg <<< 0 = s.cmdArg := BitVec.shiftLeft_zero _
    rw [setBits_operand _ 0 (Nat.lt_succ_of_le ha), hshift]
    rfl
  case mode =>
    refine changesOnly_ctrl s _
      (fun c => setBits (setBits c 2 (s.cmdArg.extractLsb' 0 2)) 4 (s.cmdArg.extractLsb' 2 1)) ?_
    exact (setBits_setBits_adjacent _ _ 2 2 1).trans (setBits_operand _ 2 ha)
  case enable =>
    refine changesOnly_ctrl s _ (setBits · 5 (s.cmdArg.extractLsb' 0 1)) ?_
    exact setBits_operand _ 5 (Nat.lt_succ_of_le ha)

/-- Settles O32: one change of PHASE, with the increment's range noted. -/
theorem oscStepEffect : Obligations.OscStepEffect := by
  intro s u hu
  refine ⟨_, exec_oscStep s hu, ?_⟩
  rw [State.advance, outOfRange32_eq_decide]
  exact changesOnly_oscRegisters_noteRange s ⟨u.toNat, hu⟩ _ [0x08] (by decide)
    (by simp [oscRegisters, Osc.read, Osc.advance])

/-- Settles O33: the oscillator advances, and its sample is taken at the new phase. -/
theorem oscTickEffect : Obligations.OscTickEffect := by
  rintro s u hu p rfl
  refine ⟨_, exec_oscTick s hu, ?_⟩
  have hout := osc_sample_eq_waveformValue (s.osc[u.toNat]'hu).advance
  rw [advance_evaluate_eq, outOfRange32_eq_decide]
  exact hout ▸ changesOnly_oscRegisters_noteRange s ⟨u.toNat, hu⟩ _ [0x08, 0x1C] (by decide)
    (by simp [oscRegisters, Osc.read, osc_evaluate_eq, Osc.advance])

/-- Settles O34: the phase is the sum modulo one cycle, and both summands are below one. -/
theorem advanceSubtractsOneCycle : Obligations.AdvanceSubtractsOneCycle := by
  intro s u hu
  refine ⟨_, exec_oscStep s hu, fun d hd hlt => ?within, fun hout => advance_rangeFlag s hout⟩
  case within =>
    rw [phaseStep_eq_increment] at hd
    refine ⟨advance_status_of_lt s (n := ⟨u.toNat, hu⟩) hd hlt, ?_⟩
    rw [← osc_advance_phase_of_lt hd hlt]
    exact congrArg (fun o : Osc => o.phase.toNat) (advance_osc_same s ⟨u.toNat, hu⟩)

/-- Settles O35, waveform by waveform, the corner cases from the general laws. -/
theorem waveformLaws : Obligations.WaveformLaws := by
  intro q pw
  have hq := q.isLt
  have hle := phase_le_pulseWidth_iff q pw
  refine ⟨hle, fun h => squareWave_of_le (hle.1 h), fun h => squareWave_of_lt ?_,
    fun h => squareWave_of_lt (by omega), fun h => squareWave_of_le (by omega), fun h => ?_, fun h => ?_,
    triangleWave_real q, sawWave_real q, triangleWave_range q, sawWave_range q, ?_, ?_, ?_⟩
  · rwa [← not_le, hle, not_le] at h
  · have hzero : q = 0 ↔ q.toNat = 0 := BitVec.toNat_inj.symm
    rw [squareWave_eq_half_iff, hzero]
    omega
  · rw [squareWave_eq_half_iff]
    omega
  all_goals rintro rfl; decide

/-- Settles O36: OUT holds the sample of the unit after its advance, which keeps WAVE. -/
theorem samplesStayInRange : Obligations.SamplesStayInRange := by
  intro s u hu
  refine ⟨_, exec_oscTick s hu, advance_evaluate_satFlag s _, ?_⟩
  have hout : fx (((s.advance ⟨u.toNat, hu⟩).evaluate ⟨u.toNat, hu⟩).osc[u.toNat]'hu).out =
      (s.osc[u.toNat]'hu).advance.sample := by
    rw [← fx_osc_evaluate_out]
    exact congrArg (fun o : Osc => fx o.out) (advance_evaluate_osc_same s ⟨u.toNat, hu⟩)
  obtain ⟨hsine, hsquare, htriangle, hsaw⟩ := osc_sample_of_wave (s.osc[u.toNat]'hu).advance
  rw [hout]
  refine ⟨fun h => ?_, fun h => ?_, fun h => ?_, fun h => ?_⟩
  · rw [hsine h]; exact sineWave_range _
  · rw [hsquare h, squareWave]; exact ite_eq_or_eq _ _ _
  · rw [htriangle h]; exact triangleWave_range _
  · rw [hsaw h]; exact sawWave_range _
end

section
/-! PROOF. The phase sequence under a constant increment (R101, R213; O37): the phase after k advances, its
period, and where it wraps. -/

namespace Sys2Proof.Machine

variable {o : Osc} {d : Nat}

/-! ### The phase after k advances -/

theorem iterate_advance_increment (o : Osc) (k : Nat) : (Osc.advance^[k] o).increment = o.increment := by
  induction k with
  | zero => rfl
  | succ k ih => rw [Function.iterate_succ_apply', osc_advance_increment, ih]

theorem iterate_advance_phase_toNat (hd : o.increment = d) (k : Nat) :
    (Osc.advance^[k] o).phase.toNat = (o.phase.toNat + k * d) % 2 ^ 32 := by
  induction k with
  | zero =>
    have hp := o.phase.isLt
    rw [Function.iterate_zero_apply]
    omega
  | succ k ih =>
    have hstep := osc_advance_phase_toNat ((iterate_advance_increment o k).trans hd)
    rw [Function.iterate_succ_apply', hstep, ih, Nat.mod_add_mod, Nat.succ_mul, Nat.add_assoc]

/-- The phase is back after k advances where `2^32` divides `k d`. -/
theorem iterate_advance_phase_eq_iff (hd : o.increment = d) (k : Nat) :
    (Osc.advance^[k] o).phase = o.phase ↔ 2 ^ 32 ∣ k * d := by
  have hp := o.phase.isLt
  rw [← BitVec.toNat_inj, iterate_advance_phase_toNat hd]
  omega

/-- The multiples of `d` that `n` divides are those by multiples of `n / gcd(d, n)`. -/
theorem dvd_mul_iff_div_gcd_dvd {n : Nat} (hn : 0 < n) (d k : Nat) :
    n ∣ k * d ↔ n / Nat.gcd d n ∣ k := by
  have hg : 0 < Nat.gcd d n := Nat.gcd_pos_of_pos_right d hn
  have hcoprime : Nat.Coprime (n / Nat.gcd d n) (d / Nat.gcd d n) :=
    (Nat.coprime_div_gcd_div_gcd hg).symm
  have hn' : n / Nat.gcd d n * Nat.gcd d n = n := Nat.div_mul_cancel (Nat.gcd_dvd_right d n)
  have hd' : k * (d / Nat.gcd d n) * Nat.gcd d n = k * d := by
    rw [Nat.mul_assoc, Nat.div_mul_cancel (Nat.gcd_dvd_left d n)]
  calc n ∣ k * d
      ↔ n / Nat.gcd d n * Nat.gcd d n ∣ k * (d / Nat.gcd d n) * Nat.gcd d n := by rw [hn', hd']
    _ ↔ n / Nat.gcd d n ∣ k * (d / Nat.gcd d n) := Nat.mul_dvd_mul_iff_right hg
    _ ↔ n / Nat.gcd d n ∣ k := hcoprime.dvd_mul_right

/-! ### Wraps -/

/-- The whole cycles in the unwrapped phase after k advances from `p` (R213). -/
def cyclesAfter (p d k : Nat) : Nat := (p + k * d) / 2 ^ 32

/-- A wrap is an advance that completes a cycle. -/
theorem wraps_iff_cyclesAfter (hd : o.increment = d) (hlt : d < 2 ^ 32) (k : Nat) :
    2 ^ 32 ≤ (Osc.advance^[k] o).phase.toNat + d ↔
      cyclesAfter o.phase.toNat d (k + 1) ≠ cyclesAfter o.phase.toNat d k := by
  rw [iterate_advance_phase_toNat hd, cyclesAfter, cyclesAfter, Nat.succ_mul]
  omega

theorem cyclesAfter_succ_of_wrap {p k : Nat} (hlt : d < 2 ^ 32)
    (h : cyclesAfter p d (k + 1) ≠ cyclesAfter p d k) : cyclesAfter p d (k + 1) = cyclesAfter p d k + 1 := by
  simp only [cyclesAfter, Nat.succ_mul] at h ⊢
  omega

/-- Where no advance from `i` up to `j` wraps, no cycle is completed. -/
theorem cyclesAfter_eq_of_no_wrap {p i j : Nat} (hij : i ≤ j)
    (h : ∀ l, i ≤ l → l < j → cyclesAfter p d (l + 1) = cyclesAfter p d l) :
    cyclesAfter p d j = cyclesAfter p d i := by
  induction j, hij using Nat.le_induction with
  | base => rfl
  | succ j hij ih => rw [h j hij (Nat.lt_succ_self j), ih fun l hil hlj => h l hil (by omega)]

/-- The first wrap is one of the first `ceil(2^32 / d)` advances. -/
theorem exists_wrap (p : Nat) (hpos : 0 < d) :
    ∃ k < (2 ^ 32 + d - 1) / d, cyclesAfter p d (k + 1) ≠ cyclesAfter p d k := by
  by_contra hnone
  push Not at hnone
  have hlast := cyclesAfter_eq_of_no_wrap (Nat.zero_le ((2 ^ 32 + d - 1) / d)) fun l _ hl => hnone l hl
  have hceil : 2 ^ 32 ≤ (2 ^ 32 + d - 1) / d * d := by
    have := Nat.lt_div_mul_add (a := 2 ^ 32 + d - 1) hpos
    omega
  simp only [cyclesAfter, Nat.zero_mul] at hlast
  omega

/-- A count whose product with `d` is within `d` of `n` is the floor or the ceiling of the quotient. -/
theorem eq_floor_or_ceil {n d m : Nat} (hlo : n < m * d + d) (hhi : m * d < n + d) :
    m = n / d ∨ m = (n + d - 1) / d := by
  have hpos : 0 < d := by omega
  rcases le_or_gt (m * d) n with h | h
  · left
    exact (Nat.div_eq_of_lt_le h (by rwa [Nat.succ_mul])).symm
  · right
    exact (Nat.div_eq_of_lt_le (by omega) (by rw [Nat.succ_mul]; omega)).symm

/-- Between two successive wraps the unwrapped phase crosses one cycle. -/
theorem wrap_gap {p i j : Nat} (hlt : d < 2 ^ 32) (hij : i < j)
    (hi : cyclesAfter p d (i + 1) ≠ cyclesAfter p d i) (hj : cyclesAfter p d (j + 1) ≠ cyclesAfter p d j)
    (hbetween : ∀ l, i < l → l < j → cyclesAfter p d (l + 1) = cyclesAfter p d l) :
    j - i = 2 ^ 32 / d ∨ j - i = (2 ^ 32 + d - 1) / d := by
  obtain ⟨m, rfl⟩ := Nat.exists_eq_add_of_lt hij
  have hfirst := cyclesAfter_succ_of_wrap hlt hi
  have hsame := cyclesAfter_eq_of_no_wrap (i := i + 1) hij hbetween
  have hlast := cyclesAfter_succ_of_wrap hlt hj
  have hgap : i + m + 1 - i = m + 1 := by omega
  simp only [cyclesAfter, Nat.add_mul, Nat.one_mul] at hfirst hsame hlast
  rw [hgap]
  refine eq_floor_or_ceil ?_ ?_ <;> rw [Nat.succ_mul] <;> omega

end Sys2Proof.Machine

open Sys2Proof Sys2Proof.Machine

/-- Settles O37: the phase is the unwrapped phase modulo `2^32`, and a wrap completes a cycle of it. -/
theorem phasePeriod : Obligations.PhasePeriod := by
  intro o d hd hpos hlt wraps hwraps
  have hcycles (k : Nat) := (hwraps k).trans (wraps_iff_cyclesAfter hd hlt k)
  refine ⟨iterate_advance_phase_toNat hd, fun k => ?period, ?first, fun i j hij hi hj hbetween => ?gap⟩
  case period => rw [iterate_advance_phase_eq_iff hd, dvd_mul_iff_div_gcd_dvd (by decide)]
  case first =>
    obtain ⟨k, hk, hwrap⟩ := exists_wrap o.phase.toNat hpos
    exact ⟨k, hk, (hcycles k).2 hwrap⟩
  case gap =>
    exact wrap_gap hlt hij ((hcycles i).1 hi) ((hcycles j).1 hj) fun l hil hlj =>
      not_not.1 fun h => hbetween l hil hlj ((hcycles l).2 h)
end

section
/-! PROOF. Through a RENDER of any length a disabled unit keeps its state, and a bypassed filter its history
(R110, R122, R126, R141; O49): no turn of a frame changes what a unit keeps while it is idle. -/

namespace Sys2Proof.Machine

/-! ### What a unit keeps -/

/-- CTRL, and PHASE and OUT where the oscillator is disabled (R110). -/
def Osc.atRest (o : Osc) : Word × Option (Word × Word) :=
  (o.ctrl, if o.en then none else some (o.phase, o.out))

/-- CTRL, OUT where the channel is disabled (R122), and the history where the channel is disabled or its
filter bypassed (R126). -/
def Channel.atRest (c : Channel) : Word × Option Word × Option (Word × Word × Word × Word) :=
  (c.ctrl, if c.en then none else some c.out, if c.en && c.filtEn then none else some c.history)

/-- CTRL, and OUT where the interpolator is disabled (R141). -/
def Interp.atRest (i : Interp) : Word × Option Word := (i.ctrl, if i.en then none else some i.out)

theorem osc_atRest_disabled {o o' : Osc} (h : o'.atRest = o.atRest) (hen : o.en = false) :
    o'.phase = o.phase ∧ o'.out = o.out := by
  obtain ⟨hctrl, hkept⟩ := Prod.mk.inj h
  have hen' : o'.en = false := by rw [Osc.en, hctrl]; exact hen
  simpa [hen, hen'] using hkept

theorem channel_atRest_disabled {c c' : Channel} (h : c'.atRest = c.atRest) (hen : c.en = false) :
    c'.out = c.out := by
  obtain ⟨hctrl, hkept⟩ := Prod.mk.inj h
  have hen' : c'.en = false := by rw [Channel.en, hctrl]; exact hen
  simpa [hen, hen'] using (Prod.mk.inj hkept).1

theorem channel_atRest_history {c c' : Channel} (h : c'.atRest = c.atRest)
    (hoff : c.en = false ∨ c.filtEn = false) : c'.history = c.history := by
  obtain ⟨hctrl, hkept⟩ := Prod.mk.inj h
  have hoff' : (c.en && c.filtEn) = false := Bool.and_eq_false_iff.2 hoff
  have hrun : (c'.en && c'.filtEn) = (c.en && c.filtEn) := by
    rw [Channel.en, Channel.filtEn, hctrl]; rfl
  simpa [hrun, hoff'] using (Prod.mk.inj hkept).2

theorem interp_atRest_disabled {i i' : Interp} (h : i'.atRest = i.atRest) (hen : i.en = false) :
    i'.out = i.out := by
  obtain ⟨hctrl, hkept⟩ := Prod.mk.inj h
  have hen' : i'.en = false := by rw [Interp.en, hctrl]; exact hen
  simpa [hen, hen'] using hkept

/-- An enabled oscillator keeps CTRL alone, which a firing leaves. -/
theorem osc_fired_atRest {o : Osc} (hen : o.en = true) : o.fired.atRest = o.atRest := by
  have hctrl : o.fired.ctrl = o.ctrl := by rw [osc_fired_eq]
  have hen' : o.fired.en = true := by rw [Osc.en, hctrl]; exact hen
  rw [Osc.atRest, Osc.atRest, hctrl, if_pos hen, if_pos hen']

/-- An enabled channel keeps CTRL, and its history where the filter is bypassed; a frame's store leaves
both. -/
theorem channel_store_atRest {c : Channel} (hen : c.en = true) (f : ChannelFrame) :
    (c.store f).atRest = c.atRest := by
  have hen' : (c.store f).en = true := by rw [channel_store_eq]; exact hen
  have hfilt : (c.store f).filtEn = c.filtEn := by rw [channel_store_eq]; rfl
  have hctrl : (c.store f).ctrl = c.ctrl := by rw [channel_store_eq]
  cases h : c.filtEn with
  | true => simp [Channel.atRest, hen, hen', hfilt, hctrl, h]
  | false =>
    have hhist : (c.store f).history = c.history := by simp [channel_store_eq, Channel.history, h]
    simp [Channel.atRest, hen, hen', hfilt, hctrl, h, hhist]

/-! ### The turns of a frame -/

/-- From `s` to `t` every unit keeps what it keeps at rest. -/
structure AtRestKept (s t : State) : Prop where
  osc : ∀ n : Fin Config.nosc, t.osc[n].atRest = s.osc[n].atRest
  ch : ∀ c : Fin Config.nch, t.ch[c].atRest = s.ch[c].atRest
  ip : ∀ k : Fin Config.nip, t.ip[k].atRest = s.ip[k].atRest

variable {s t : State}

theorem atRestKept_congr {u : State} (h : AtRestKept s t) (ho : u.osc = t.osc) (hc : u.ch = t.ch)
    (hi : u.ip = t.ip) : AtRestKept s u :=
  ⟨by rw [ho]; exact h.osc, by rw [hc]; exact h.ch, by rw [hi]; exact h.ip⟩

theorem atRestKept_modifyOsc (h : AtRestKept s t) (n : Fin Config.nosc) {f : Osc → Osc}
    (hf : (f t.osc[n]).atRest = t.osc[n].atRest) : AtRestKept s (t.modifyOsc n f) where
  osc m := by
    rw [← h.osc m]
    by_cases hm : m = n
    · subst hm; rw [modifyOsc_osc_same, hf]
    · rw [modifyOsc_osc_other _ _ hm]
  ch := h.ch
  ip := h.ip

theorem atRestKept_modifyCh (h : AtRestKept s t) (c : Fin Config.nch) {f : Channel → Channel}
    (hf : (f t.ch[c]).atRest = t.ch[c].atRest) : AtRestKept s (t.modifyCh c f) where
  osc := h.osc
  ch d := by
    rw [← h.ch d]
    by_cases hd : d = c
    · subst hd; rw [modifyCh_ch_same, hf]
    · rw [modifyCh_ch_other _ _ hd]
  ip := h.ip

theorem atRestKept_modifyIp (h : AtRestKept s t) (k : Fin Config.nip) {f : Interp → Interp}
    (hf : (f t.ip[k]).atRest = t.ip[k].atRest) : AtRestKept s (t.modifyIp k f) where
  osc := h.osc
  ch := h.ch
  ip j := by
    rw [← h.ip j]
    by_cases hj : j = k
    · subst hj; rw [modifyIp_ip_same, hf]
    · rw [modifyIp_ip_other _ _ hj]

theorem atRestKept_noteRange (h : AtRestKept s t) (b : Bool) : AtRestKept s (t.noteRange b) :=
  atRestKept_congr h (noteRange_osc t b) (noteRange_ch t b) (noteRange_ip t b)

theorem atRestKept_noteSat (h : AtRestKept s t) (b : Bool) : AtRestKept s (t.noteSat b) :=
  atRestKept_congr h (noteSat_osc t b) (noteSat_ch t b) (noteSat_ip t b)

theorem atRestKept_fire (h : AtRestKept s t) {n : Fin Config.nosc} (hen : t.osc[n].en = true) :
    AtRestKept s (t.fire n) := by
  rw [fire_eq_noteRange]
  exact atRestKept_noteRange (atRestKept_modifyOsc h n (osc_fired_atRest hen)) _

/-- RENDER fires enabled oscillators alone (R110). -/
theorem atRestKept_fireIf (h : AtRestKept s t) (mode : BitVec 2) (n : Fin Config.nosc) :
    AtRestKept s (t.fireIf mode n) := by
  rcases fireIf_cases t mode n with ⟨hen, -, e⟩ | ⟨-, e⟩ <;> rw [e]
  · exact atRestKept_fire h hen
  · exact h

theorem atRestKept_drawSource (h : AtRestKept s t) (src : Word) : AtRestKept s (t.drawSource src) := by
  rcases drawSource_cases t src with e | ⟨hn, hen, -, e⟩ <;> rw [e]
  · exact h
  · exact atRestKept_fire (n := ⟨src.toNat, hn⟩) h hen

/-- A destination's register is never CTRL, PHASE, OUT or a history register (R145). -/
theorem atRestKept_writeDest (h : AtRestKept s t) (d a : Word) : AtRestKept s (t.writeDest d a) := by
  rcases writeDest_cases t d a with e | ⟨n, f, e, hf⟩ | ⟨c, f, e, hf⟩ | ⟨k, f, e, hf⟩ <;> rw [e]
  · exact h
  · refine atRestKept_modifyOsc h n ?_
    rcases hf with rfl | rfl | rfl <;> rfl
  · refine atRestKept_modifyCh h c ?_
    rcases hf with ⟨_, rfl⟩ | rfl | rfl | rfl | rfl | rfl | rfl | rfl | rfl | rfl | rfl | rfl <;> rfl
  · refine atRestKept_modifyIp h k ?_
    rcases hf with rfl | rfl <;> rfl

@[simp] theorem drawSource_ip (s : State) (src : Word) : (s.drawSource src).ip = s.ip := by
  rcases drawSource_cases s src with e | ⟨hn, -, -, e⟩ <;> rw [e]
  rw [fire_eq]

/-- A new OUT of an enabled interpolator. -/
theorem interp_setOut_atRest {i : Interp} (hen : i.en = true) (v : Word) :
    ({ i with out := v }).atRest = i.atRest := by
  have hen' : ({ i with out := v }).en = true := hen
  rw [Interp.atRest, Interp.atRest, if_pos hen, if_pos hen']

/-- Only an enabled interpolator runs (R141). -/
theorem atRestKept_runInterpIf (h : AtRestKept s t) (k : Fin Config.nip) :
    AtRestKept s (t.runInterpIf k) := by
  unfold State.runInterpIf
  split
  case isFalse => exact h
  case isTrue hen =>
    have hen' : (t.drawSource t.ip[k].src).ip[k].en = true := by simpa only [drawSource_ip] using hen
    have hout := fun v b => atRestKept_noteSat
      (atRestKept_modifyIp (f := fun i => { i with out := v }) (atRestKept_drawSource h t.ip[k].src) k
        (interp_setOut_atRest hen' v)) b
    unfold State.runInterp
    dsimp only
    split
    · exact hout _ _
    · exact atRestKept_writeDest (hout _ _) _ _

/-- Only an enabled channel is computed (R122). -/
theorem atRestKept_runChannelIf (h : AtRestKept s t) (c : Fin Config.nch) :
    AtRestKept s (t.runChannelIf c) := by
  rcases runChannelIf_cases t c with ⟨hen, e⟩ | ⟨-, e⟩ <;> rw [e]
  · exact atRestKept_noteSat (atRestKept_modifyCh h c (channel_store_atRest hen _)) _
  · exact h

/-! ### The frame and the block -/

theorem atRestKept_inputsReady (h : AtRestKept s t) : AtRestKept s t.inputsReady := by
  unfold State.inputsReady State.stageOscs State.stageInterps State.stageLfos
  have hlfos := forUnits_keeps (AtRestKept s) (fun n _ hu => atRestKept_fireIf hu modeLfoOnce n) h
  have hinterps := forUnits_keeps (AtRestKept s) (fun k _ hu => atRestKept_runInterpIf hu k) hlfos
  exact forUnits_keeps (AtRestKept s) (fun n _ hu => atRestKept_fireIf hu modeAudio n) hinterps

theorem atRestKept_stageChannels (h : AtRestKept s t) : AtRestKept s t.stageChannels :=
  forUnits_keeps (AtRestKept s) (fun c _ hu => atRestKept_runChannelIf hu c) h

@[simp] theorem advanceRamp_ip (s : State) : s.advanceRamp.ip = s.ip := by
  rcases advanceRamp_cases s with ⟨-, e⟩ | ⟨-, e⟩ | ⟨-, e⟩ <;> rw [e]

@[simp] theorem stageOutput_ip (s : State) (i : Nat) : (s.stageOutput i).ip = s.ip := by
  simp [State.stageOutput]

theorem atRestKept_renderFrame (h : AtRestKept s t) (i : Nat) : AtRestKept s (t.renderFrame i) := by
  rw [renderFrame_eq]
  exact atRestKept_congr (atRestKept_stageChannels (atRestKept_inputsReady h)) (stageOutput_osc _ i)
    (stageOutput_ch _ i) (stageOutput_ip _ i)

theorem atRestKept_renderBlock (s : State) (n : Nat) : AtRestKept s (s.renderBlock n) :=
  renderFrom_keeps s (AtRestKept s) (fun _ i h => atRestKept_renderFrame h i) 0 n
    ⟨fun _ => rfl, fun _ => rfl, fun _ => rfl⟩

theorem exec_render (h : s.cmdArg.toNat ≤ s.maxBlock.toNat) :
    exec .render s = .next (s.renderBlock s.cmdArg.toNat) := by
  have hlegal : renderLegal s.cmdArg s.maxBlock = true := decide_eq_true h
  rw [exec, execRender, withArg_legal hlegal]

end Sys2Proof.Machine

open Sys2Proof Sys2Proof.Machine

/-- Settles O49, each clause from what the unit keeps at rest. -/
theorem disabledUnitsKeepTheirState : Obligations.DisabledUnitsKeepTheirState := by
  intro s harg
  have kept := atRestKept_renderBlock s s.cmdArg.toNat
  refine ⟨_, exec_render harg, fun n => osc_atRest_disabled (kept.osc n),
    fun c => channel_atRest_disabled (kept.ch c), fun c hoff => ?history,
    fun k => interp_atRest_disabled (kept.ip k)⟩
  case history => simpa [Channel.history] using channel_atRest_history (kept.ch c) hoff
end

section
/-! PROOF. The channel commands (R129 to R140): what each writes and that it writes nothing else (O38 to
O41), and what a frame makes of an enabled channel (R122 to R127, R168; O47). -/

namespace Sys2Proof.Machine

variable (s : State)

/-! ### The frame of a change of one channel -/

/-- A channel's registers in the order of their offsets (R51). -/
def Channel.words (c : Channel) : List Word :=
  [c.ctrl, c.tapSrc[0], c.tapSrc[1], c.tapSrc[2], c.tapSrc[3], c.tapGain[0], c.tapGain[1], c.tapGain[2],
    c.tapGain[3], c.offset, c.clip, c.b0, c.b1, c.b2, c.a1, c.a2, c.x1, c.x2, c.y1, c.y2, c.dry, c.wet,
    c.gain, c.pan, c.out]

/-- The group's j-th word is the j-th register, and reads 0 past the last one (R51, R68). -/
theorem channel_read_eq_words (c : Channel) (j : Nat) : c.read (4 * j) = c.words[j]?.getD 0 := by
  by_cases h : j < 25
  · interval_cases j <;> rfl
  · rw [channel_read_reserved c (by omega), List.getElem?_eq_none (not_lt.1 h)]; rfl

/-- A change of one channel that leaves every register but those listed. -/
theorem changesOnly_chWords (c : Fin Config.nch) {f : Channel → Channel} (js : List Nat)
    (hjs : ∀ j ∈ js, j < 25) (hf : ∀ j, j ∉ js → (f s.ch[c]).words[j]? = s.ch[c].words[j]?) :
    ChangesOnly s (s.modifyCh c f) (js.map fun j => (chOffset c (4 * j), (f s.ch[c]).read (4 * j))) := by
  have inGroup : ∀ j ∈ js, 4 * j < 0x80 := fun j hj => by
    have hlt := hjs j hj
    omega
  have others : ∀ k < 0x80, k % 4 = 0 → (∀ p ∈ js.map fun j => (4 * j, (f s.ch[c]).read (4 * j)), p.1 ≠ k) →
      (f s.ch[c]).read k = s.ch[c].read k := fun k _ h4 hp => by
    obtain ⟨j, rfl⟩ : ∃ j, k = 4 * j := ⟨k / 4, by omega⟩
    rw [channel_read_eq_words, channel_read_eq_words, hf j fun hj => hp _ (List.mem_map_of_mem hj) rfl]
  have h := changesOnly_modifyCh s c f (js.map fun j => (4 * j, (f s.ch[c]).read (4 * j)))
    (by simpa using inGroup) others
  rwa [List.map_map] at h

/-- A change of the j-th register of one channel, at offset `k` of the group. -/
theorem changesOnly_chWord (c : Fin Config.nch) {f : Channel → Channel} {k : Nat} {v : Word} (j : Nat)
    (hk : k = 4 * j) (hj : j < 25) (hf : (f s.ch[c]).words = s.ch[c].words.set j v) :
    ChangesOnly s (s.modifyCh c f) [(chOffset c k, v)] := by
  have hv : (f s.ch[c]).read (4 * j) = v := by
    rw [channel_read_eq_words, hf, List.getElem?_set_self hj]; rfl
  rw [hk, ← hv]
  refine changesOnly_chWords s c [j] (by simpa using hj) fun i hi => ?_
  rw [hf, List.getElem?_set_ne (List.ne_of_not_mem_cons hi).symm]

/-- A change of CTRL alone. -/
theorem changesOnly_chCtrl (c : Fin Config.nch) (g : Word → Word) {v : Word} (hv : g s.ch[c].ctrl = v) :
    ChangesOnly s (s.modifyCh c fun ch => { ch with ctrl := g ch.ctrl }) [(chOffset c 0x00, v)] :=
  changesOnly_chWord s c 0 rfl (by decide) (congrArg (· :: _) hv)

/-! ### Taps, coefficients and the history -/

/-- TAP_SRC[t] is the t-th word from 0x04 up (R51, R130). -/
theorem changesOnly_writeChTapSrc (c : Fin Config.nch) (t : Fin 4) (a : Word) :
    ChangesOnly s (s.writeChTapSrc c t a) [(chOffset c (0x04 + 4 * t), a)] := by
  refine changesOnly_chWord s c (1 + t) (by omega) (by omega) ?_
  fin_cases t <;> simp [Channel.words]

/-- TAP_GAIN[t] is the t-th word from 0x14 up (R51, R131). -/
theorem changesOnly_writeChTapGain (c : Fin Config.nch) (t : Fin 4) (a : Word) :
    ChangesOnly s (s.writeChTapGain c t a) [(chOffset c (0x14 + 4 * t), a)] := by
  refine changesOnly_chWord s c (5 + t) (by omega) (by omega) ?_
  fin_cases t <;> simp [Channel.words]

/-- B0, B1, B2, A1 and A2 are the words from 0x2C up (R51, R135). -/
theorem changesOnly_writeChCoef (c : Fin Config.nch) (k : Fin 5) (a : Word) :
    ChangesOnly s (s.writeChCoef c k a) [(chOffset c (0x2C + 4 * k), a)] := by
  refine changesOnly_chWord s c (11 + k) (by omega) (by omega) ?_
  fin_cases k <;> rfl

/-- X1, X2, Y1 and Y2 are the words from 0x40 up (R51, R136). -/
theorem changesOnly_clearChHist (c : Fin Config.nch) :
    ChangesOnly s (s.clearChHist c)
      [(chOffset c 0x40, 0), (chOffset c 0x44, 0), (chOffset c 0x48, 0), (chOffset c 0x4C, 0)] := by
  have hwords : ∀ ch : Channel, ({ ch with x1 := 0, x2 := 0, y1 := 0, y2 := 0 }).words =
      (((ch.words.set 16 0).set 17 0).set 18 0).set 19 0 := fun _ => rfl
  refine changesOnly_chWords s c [16, 17, 18, 19] (by decide) fun j hj => ?_
  simp only [List.mem_cons, List.not_mem_nil, or_false, not_or] at hj
  obtain ⟨h16, h17, h18, h19⟩ := hj
  rw [hwords, List.getElem?_set_ne (Ne.symm h19), List.getElem?_set_ne (Ne.symm h18),
    List.getElem?_set_ne (Ne.symm h17), List.getElem?_set_ne (Ne.symm h16)]

/-! ### The commands' next states -/

variable {u t : Byte}

theorem exec_chSetOffset (hu : u.toNat < Config.nch) :
    exec (.chSetOffset u) s = .next (s.writeChOffset ⟨u.toNat, hu⟩ s.cmdArg) := by
  rw [exec, execChSetOffset, withUnit_ok s _ _ hu]

theorem exec_chSetClip (hu : u.toNat < Config.nch) :
    exec (.chSetClip u) s = .next (s.writeChClip ⟨u.toNat, hu⟩ s.cmdArg) := by
  rw [exec, execChSetClip, withUnit_ok s _ _ hu]

theorem exec_chSetDry (hu : u.toNat < Config.nch) :
    exec (.chSetDry u) s = .next (s.writeChDry ⟨u.toNat, hu⟩ s.cmdArg) := by
  rw [exec, execChSetDry, withUnit_ok s _ _ hu]

theorem exec_chSetWet (hu : u.toNat < Config.nch) :
    exec (.chSetWet u) s = .next (s.writeChWet ⟨u.toNat, hu⟩ s.cmdArg) := by
  rw [exec, execChSetWet, withUnit_ok s _ _ hu]

theorem exec_chSetGain (hu : u.toNat < Config.nch) :
    exec (.chSetGain u) s = .next (s.writeChGain ⟨u.toNat, hu⟩ s.cmdArg) := by
  rw [exec, execChSetGain, withUnit_ok s _ _ hu]

theorem exec_chSetPan (hu : u.toNat < Config.nch) :
    exec (.chSetPan u) s = .next (s.writeChPan ⟨u.toNat, hu⟩ s.cmdArg) := by
  rw [exec, execChSetPan, withUnit_ok s _ _ hu]

theorem exec_chEnable (hu : u.toNat < Config.nch) (ha : s.cmdArg.toNat ≤ 1) :
    exec (.chEnable u) s = .next (s.writeChEnable ⟨u.toNat, hu⟩ s.cmdArg) := by
  have hlegal : enableLegal s.cmdArg = true := decide_eq_true ha
  rw [exec, execChEnable, withUnit_ok s _ _ hu, withArg_legal hlegal]

theorem exec_chSetFlags (hu : u.toNat < Config.nch) (ha : s.cmdArg.toNat < 8) :
    exec (.chSetFlags u) s = .next (s.writeChFlags ⟨u.toNat, hu⟩ s.cmdArg) := by
  rw [exec, execChSetFlags, withUnit_ok s _ _ hu, withArg_legal ((flagsLegal_iff _).2 ha)]

theorem exec_chSetTapSrc (hu : u.toNat < Config.nch) (ht : t.toNat < 4)
    (ha : s.cmdArg.toNat < Config.nosc ∨ s.cmdArg.toNat = 0xFF) :
    exec (.chSetTapSrc u t) s = .next (s.writeChTapSrc ⟨u.toNat, hu⟩ ⟨t.toNat, ht⟩ s.cmdArg) := by
  have hlegal : tapSrcLegal s.cmdArg = true := by simpa [tapSrcLegal] using ha
  rw [exec, execChSetTapSrc, withUnit_ok s _ _ hu, withSub_ok s _ _ ht, withArg_legal hlegal]

theorem exec_chSetTapGain (hu : u.toNat < Config.nch) (ht : t.toNat < 4) :
    exec (.chSetTapGain u t) s = .next (s.writeChTapGain ⟨u.toNat, hu⟩ ⟨t.toNat, ht⟩ s.cmdArg) := by
  rw [exec, execChSetTapGain, withUnit_ok s _ _ hu, withSub_ok s _ _ ht]

theorem exec_chSetCoef (hu : u.toNat < Config.nch) (ht : t.toNat < 5) :
    exec (.chSetCoef u t) s = .next (s.writeChCoef ⟨u.toNat, hu⟩ ⟨t.toNat, ht⟩ s.cmdArg) := by
  rw [exec, execChSetCoef, withUnit_ok s _ _ hu, withSub_ok s _ _ ht]

theorem exec_chClearHist (hu : u.toNat < Config.nch) :
    exec (.chClearHist u) s = .next (s.clearChHist ⟨u.toNat, hu⟩) := by
  rw [exec, execChClearHist, withUnit_ok s _ _ hu]

/-! ### One channel's frame (R122 to R127) -/

theorem compute_x (c : Channel) (outs : Word → Int) :
    (c.compute outs).x = c.clipped (sat32 (c.tapAcc outs / 2 ^ 24)) := rfl

theorem compute_x_range (c : Channel) (outs : Word → Int) :
    -0x80000000 ≤ (c.compute outs).x ∧ (c.compute outs).x ≤ 0x7FFFFFFF :=
  clipped_range c (sat32_range _)

/-- The filter's output, or the clipped input itself in bypass, which is in FX range (R125, R126). -/
theorem compute_y (c : Channel) (outs : Word → Int) :
    (c.compute outs).y =
      if c.filtEn then sat32 (c.biquadAcc (c.compute outs).x / 2 ^ 24) else (c.compute outs).x := by
  have hy : (c.compute outs).y =
      sat32 (if c.filtEn then c.biquadAcc (c.compute outs).x / 2 ^ 24 else (c.compute outs).x) := rfl
  have hbypass : sat32 (c.compute outs).x = (c.compute outs).x :=
    (sat32_eq_iff _).2 (saturates_clipped_sat32 c _)
  rw [hy, apply_ite sat32, hbypass]

theorem compute_v (c : Channel) (outs : Word → Int) :
    (c.compute outs).v =
      sat32 (fx c.gain *
        sat32 ((fx c.dry * (c.compute outs).x + fx c.wet * (c.compute outs).y) / 2 ^ 24) / 2 ^ 24) := rfl

/-! ### What storing a frame leaves and writes (R125 to R127) -/

theorem store_tapAcc (c : Channel) (f : ChannelFrame) (outs : Word → Int) :
    (c.store f).tapAcc outs = c.tapAcc outs := by rw [channel_store_eq]; rfl

theorem store_clipped (c : Channel) (f : ChannelFrame) (x : Int) : (c.store f).clipped x = c.clipped x := by
  rw [channel_store_eq]; rfl

theorem store_filtEn (c : Channel) (f : ChannelFrame) : (c.store f).filtEn = c.filtEn := by
  rw [channel_store_eq]; rfl

theorem fx_store_out (c : Channel) (f : ChannelFrame) : fx (c.store f).out = f.v := by
  rw [channel_store_eq]; exact fx_toFx_sat32 _

/-- A running filter shifts its history by one frame (R125). -/
theorem store_history_of_running {c : Channel} {f : ChannelFrame} (hf : c.filtEn = true)
    (hx : -0x80000000 ≤ f.x ∧ f.x ≤ 0x7FFFFFFF) :
    fx (c.store f).x1 = f.x ∧ (c.store f).x2 = c.x1 ∧ fx (c.store f).y1 = f.y ∧
      (c.store f).y2 = c.y1 := by
  have hy : fx (toFx f.y) = f.y := fx_toFx_sat32 _
  simp only [channel_store_eq, hf, if_true, fx_toFx hx, hy, and_self]

/-- A bypassed filter freezes its history (R126). -/
theorem store_history_of_bypassed {c : Channel} {f : ChannelFrame} (hf : c.filtEn = false) :
    (c.store f).x1 = c.x1 ∧ (c.store f).x2 = c.x2 ∧ (c.store f).y1 = c.y1 ∧ (c.store f).y2 = c.y2 := by
  simp only [channel_store_eq, hf, Bool.false_eq_true, if_false, and_self]

/-- A frame of an enabled channel (R122, R168): stages 1 to 3 change only its parameters, so that it is
computed on a channel `c'` with the history from before the frame. -/
theorem exists_renderFrame_ch_eq_store {s : State} (h : Inv s) (i : Nat) {c : Fin Config.nch}
    (hen : s.ch[c].en = true) :
    ∃ c' : Channel, c'.history = s.ch[c].history ∧
      (s.renderFrame i).ch[c] = c'.store (c'.compute (s.renderFrame i).oscOut) := by
  obtain ⟨hctrl, hhist⟩ := Prod.mk.inj ((inputsKept_inputsReady h).undriven c)
  have hen' : s.inputsReady.ch[c].en = true := by rw [Channel.en, hctrl]; exact hen
  exact ⟨_, hhist, by rw [renderFrame_ch, renderFrame_oscOut, Channel.afterFrame, if_pos hen']⟩

end Sys2Proof.Machine

open Sys2Proof Sys2Proof.Machine

/-- Settles O38: each of the six is a change of one register. -/
theorem channelParameterWrites : Obligations.ChannelParameterWrites := by
  intro s u hu
  refine ⟨⟨_, exec_chSetOffset s hu, ?offset⟩, ⟨_, exec_chSetClip s hu, ?clip⟩,
    ⟨_, exec_chSetDry s hu, ?dry⟩, ⟨_, exec_chSetWet s hu, ?wet⟩, ⟨_, exec_chSetGain s hu, ?gain⟩,
    ⟨_, exec_chSetPan s hu, ?pan⟩⟩
  case offset => exact changesOnly_chWord s _ 9 rfl (by decide) rfl
  case clip => exact changesOnly_chWord s _ 10 rfl (by decide) rfl
  case dry => exact changesOnly_chWord s _ 20 rfl (by decide) rfl
  case wet => exact changesOnly_chWord s _ 21 rfl (by decide) rfl
  case gain => exact changesOnly_chWord s _ 22 rfl (by decide) rfl
  case pan => exact changesOnly_chWord s _ 23 rfl (by decide) rfl

/-- Settles O39: each is a change of CTRL in one field, EN at bit 0 and the three flags from bit 1 up. -/
theorem channelControlWrites : Obligations.ChannelControlWrites := by
  intro s u hu
  refine ⟨fun ha => ⟨_, exec_chEnable s hu ha, ?enable⟩, fun ha => ⟨_, exec_chSetFlags s hu ha, ?flags⟩⟩
  case enable =>
    refine changesOnly_chCtrl s _ (setBits · 0 (s.cmdArg.extractLsb' 0 1)) ?_
    have hshift : s.cmdArg <<< 0 = s.cmdArg := BitVec.shiftLeft_zero _
    rw [setBits_operand _ 0 (Nat.lt_succ_of_le ha), hshift]
    rfl
  case flags =>
    exact changesOnly_chCtrl s _ (setBits · 1 (s.cmdArg.extractLsb' 0 3)) (setBits_operand _ 1 ha)

/-- Settles O40: each is a change of the tap's one register. -/
theorem channelTapWrites : Obligations.ChannelTapWrites := by
  intro s u t hu ht
  exact ⟨fun ha => ⟨_, exec_chSetTapSrc s hu ht ha, changesOnly_writeChTapSrc s _ _ _⟩,
    ⟨_, exec_chSetTapGain s hu ht, changesOnly_writeChTapGain s _ _ _⟩⟩

/-- Settles O41: one coefficient's register, and the four of the history. -/
theorem channelCoefficientAndHistoryWrites : Obligations.ChannelCoefficientAndHistoryWrites := by
  intro s u t hu
  exact ⟨fun ht => ⟨_, exec_chSetCoef s hu ht, changesOnly_writeChCoef s _ _ _⟩,
    ⟨_, exec_chClearHist s hu, changesOnly_clearChHist s ⟨u.toNat, hu⟩⟩⟩

/-- Settles O47: the channel's frame is computed on its parameters as stages 1 to 3 leave them and its
history from before the frame, and storing the frame leaves the parameters. -/
theorem channelComputesFrame : Obligations.ChannelComputesFrame := by
  intro s h harg
  refine ⟨s.renderFrame 0, exec_render_one h.maxBlock.1 harg, fun c hen x0 x y hx0 hx hy => ?_⟩
  obtain ⟨c', hhist, hframe⟩ := exists_renderFrame_ch_eq_store h 0 hen
  simp only [Channel.history, Prod.mk.injEq] at hhist
  obtain ⟨hx1, hx2, hy1, hy2⟩ := hhist
  simp only [hframe, outAt_eq_oscOut, ← hx1, ← hx2, ← hy1, ← hy2] at hx0 hx hy ⊢
  obtain rfl : x = (c'.compute (s.renderFrame 0).oscOut).x := by
    rw [hx, hx0, ← tapAcc_eq_sum, ← clipped_eq, store_clipped, store_tapAcc, compute_x]
  obtain rfl : y = (c'.compute (s.renderFrame 0).oscOut).y := by
    rw [hy, store_filtEn, compute_y]
    simp only [channel_store_eq, Channel.biquadAcc]
  rw [store_filtEn]
  refine ⟨?output, fun hf => store_history_of_running hf (compute_x_range c' _),
    fun hf => store_history_of_bypassed hf⟩
  case output =>
    rw [fx_store_out, compute_v]
    simp only [channel_store_eq]
end

section
/-! PROOF. The interpolator commands (R149 to R153): what each writes and that it writes nothing else (O42),
and the affine map (R143, R144; O43). -/

namespace Sys2Proof.Machine

variable (s : State)

/-! ### The frame of a change of one interpolator -/

/-- An interpolator's registers in the order of their offsets (R59). -/
def Interp.words (i : Interp) : List Word := [i.ctrl, i.src, i.dest, i.minVal, i.maxVal, i.out]

/-- The group's j-th word is the j-th register, and reads 0 past the last one (R59, R68). -/
theorem interp_read_eq_words (i : Interp) (j : Nat) : i.read (4 * j) = i.words[j]?.getD 0 := by
  by_cases h : j < 6
  · interval_cases j <;> rfl
  · rw [interp_read_reserved i (by omega), List.getElem?_eq_none (not_lt.1 h)]; rfl

/-- A change of the j-th register of one interpolator, at offset `o` of the group. -/
theorem changesOnly_ipWord (k : Fin Config.nip) {f : Interp → Interp} {o : Nat} {v : Word} (j : Nat)
    (ho : o = 4 * j) (hj : j < 6) (hf : (f s.ip[k]).words = s.ip[k].words.set j v) :
    ChangesOnly s (s.modifyIp k f) [(ipOffset k o, v)] := by
  subst ho
  refine changesOnly_modifyIp s k f [(4 * j, v)] ?written ?others
  case written =>
    simp only [List.mem_singleton, forall_eq]
    rw [interp_read_eq_words, hf, List.getElem?_set_self hj]
    exact ⟨by omega, rfl⟩
  case others =>
    intro o _ h4 ho
    obtain ⟨i, rfl⟩ : ∃ i, o = 4 * i := ⟨o / 4, by omega⟩
    have hne : j ≠ i := by simpa using ho
    rw [interp_read_eq_words, interp_read_eq_words, hf, List.getElem?_set_ne hne]

/-! ### The commands' next states -/

variable {u : Byte}

theorem exec_ipEnable (hu : u.toNat < Config.nip) (ha : s.cmdArg.toNat ≤ 1) :
    exec (.ipEnable u) s = .next (s.writeIpEnable ⟨u.toNat, hu⟩ s.cmdArg) := by
  have hlegal : enableLegal s.cmdArg = true := decide_eq_true ha
  rw [exec, execIpEnable, withUnit_ok s _ _ hu, withArg_legal hlegal]

theorem exec_ipSetSrc (hu : u.toNat < Config.nip) (ha : s.cmdArg.toNat < Config.nosc) :
    exec (.ipSetSrc u) s = .next (s.writeIpSrc ⟨u.toNat, hu⟩ s.cmdArg) := by
  have hlegal : srcLegal s.cmdArg = true := decide_eq_true ha
  rw [exec, execIpSetSrc, withUnit_ok s _ _ hu, withArg_legal hlegal]

theorem exec_ipSetDest (hu : u.toNat < Config.nip) (ha : validDestination s.cmdArg) :
    exec (.ipSetDest u) s = .next (s.writeIpDest ⟨u.toNat, hu⟩ s.cmdArg) := by
  rw [exec, execIpSetDest, withUnit_ok s _ _ hu, withArg_legal ((destLegal_iff _).2 ha)]

theorem exec_ipSetMin (hu : u.toNat < Config.nip) :
    exec (.ipSetMin u) s = .next (s.writeIpMin ⟨u.toNat, hu⟩ s.cmdArg) := by
  rw [exec, execIpSetMin, withUnit_ok s _ _ hu]

theorem exec_ipSetMax (hu : u.toNat < Config.nip) :
    exec (.ipSetMax u) s = .next (s.writeIpMax ⟨u.toNat, hu⟩ s.cmdArg) := by
  rw [exec, execIpSetMax, withUnit_ok s _ _ hu]

/-! ### The affine map (R143, R144) -/

/-- Between MIN and MAX in ascending order the affine map rises. -/
theorem affineMap_monotone {mn mx x x' : Int} (hx : x ≤ x') (hm : mn ≤ mx) :
    affineMap mn mx x ≤ affineMap mn mx x' := by
  have hshare : (x + 2 ^ 24) * (mx - mn) ≤ (x' + 2 ^ 24) * (mx - mn) :=
    mul_le_mul_of_nonneg_right (by omega) (by omega)
  unfold affineMap
  omega

/-- Between MIN and MAX in descending order the affine map falls. -/
theorem affineMap_antitone {mn mx x x' : Int} (hx : x ≤ x') (hm : mx ≤ mn) :
    affineMap mn mx x' ≤ affineMap mn mx x := by
  have hshare : (x' + 2 ^ 24) * (mx - mn) ≤ (x + 2 ^ 24) * (mx - mn) :=
    mul_le_mul_of_nonpos_right (by omega) (by omega)
  unfold affineMap
  omega

/-- At -1.0, +1.0 and 0 the share of the distance is none, all and half of it. -/
theorem affineMap_points (mn mx : Int) :
    affineMap mn mx (-0x1000000) = mn ∧ affineMap mn mx 0x1000000 = mx ∧
      affineMap mn mx 0 = mn + (mx - mn) / 2 := by
  unfold affineMap
  omega

end Sys2Proof.Machine

open Sys2Proof Sys2Proof.Machine

/-- Settles O42: each of the five is a change of one register, IP_ENABLE's in one field of CTRL. -/
theorem interpolatorWrites : Obligations.InterpolatorWrites := by
  intro s u hu
  refine ⟨fun ha => ⟨_, exec_ipEnable s hu ha, ?enable⟩, fun ha => ⟨_, exec_ipSetSrc s hu ha, ?src⟩,
    fun ha => ⟨_, exec_ipSetDest s hu ha, ?dest⟩, ⟨_, exec_ipSetMin s hu, ?min⟩,
    ⟨_, exec_ipSetMax s hu, ?max⟩⟩
  case enable =>
    have hctrl : setBits (s.ip[u.toNat]'hu).ctrl 0 (s.cmdArg.extractLsb' 0 1) =
        (s.ip[u.toNat]'hu).ctrl &&& ~~~(0x1 : Word) ||| s.cmdArg := by
      have hshift : s.cmdArg <<< 0 = s.cmdArg := BitVec.shiftLeft_zero _
      rw [setBits_operand _ 0 (Nat.lt_succ_of_le ha), hshift]
      rfl
    exact changesOnly_ipWord s ⟨u.toNat, hu⟩ 0 rfl (by decide) (congrArg (· :: _) hctrl)
  case src => exact changesOnly_ipWord s _ 1 rfl (by decide) rfl
  case dest => exact changesOnly_ipWord s _ 2 rfl (by decide) rfl
  case min => exact changesOnly_ipWord s _ 3 rfl (by decide) rfl
  case max => exact changesOnly_ipWord s _ 4 rfl (by decide) rfl

/-- Settles O43, clause by clause on R143's formula. -/
theorem interpolatorMapProperties : Obligations.InterpolatorMapProperties := by
  intro i x x'
  obtain ⟨hlow, hhigh, hmiddle⟩ := affineMap_points (fx i.minVal) (fx i.maxVal)
  refine ⟨?_, ?_, ?_, fun h0 h1 => ?range, fun hx hm => ?rises, fun hx hm => ?falls⟩
  · rintro rfl; rw [mapRaw_eq_affineMap, hlow]
  · rintro rfl; rw [mapRaw_eq_affineMap, hhigh]
  · rintro rfl; rw [mapRaw_eq_affineMap, hmiddle]
  case range =>
    have hclamp := mapRaw_not_saturates i h0 h1
    obtain ⟨hmin, hmax⟩ := mapRaw_between i h0 h1
    exact ⟨hmin, hmax, (sat32_eq_iff _).2 hclamp, hclamp⟩
  case rises => rw [mapRaw_eq_affineMap, mapRaw_eq_affineMap]; exact affineMap_monotone hx hm
  case falls => rw [mapRaw_eq_affineMap, mapRaw_eq_affineMap]; exact affineMap_antitone hx hm.le
end

section
/-! PROOF. What the stages of a frame and one turn of an interpolator do to each register: a stage leaves
every register that a DEST can name (R145), and an interpolator's turn draws its source, writes its OUT and
the one register that it drives (R141 to R146). -/

namespace Sys2Proof.Machine

variable {s : State}

/-! ### The registers that the stages leave to interpolators -/

/-- A register's offset that no stage of `frames` frames writes itself: only a DEST can change it. -/
def StageKept (frames a : Nat) : Prop := a % 4 = 0 ∧ ¬stageWritten frames a

/-- Such an offset, by its place in the window and in its group (R26, R42, R51, R59). -/
theorem stageKept_of_place {frames a : Nat} (h4 : a % 4 = 0) (hunits : 0x1000 ≤ a ∧ a < 0x8000)
    (hosc : a < 0x4000 → a % 0x20 ≠ 0x08 ∧ a % 0x20 ≠ 0x1C)
    (hch : 0x4000 ≤ a → a < 0x6000 → (a % 0x80 < 0x40 ∨ 0x50 ≤ a % 0x80) ∧ a % 0x80 ≠ 0x60)
    (hip : 0x6000 ≤ a → a % 0x20 ≠ 0x14) : StageKept frames a := by
  refine ⟨h4, ?_⟩
  simp only [stageWritten, List.mem_cons, List.not_mem_nil, or_false, exists_eq_or_imp, exists_eq_left,
    oscOffset, chOffset, ipOffset, Config.nosc, Config.nch, Config.nip]
  rintro (h | ⟨n, h⟩ | ⟨c, h⟩ | ⟨i, h⟩ | h) <;> omega

theorem stageKept_osc {n k frames : Nat} (hn : n < 32) (hk : k ∈ [0x10, 0x14, 0x18]) :
    StageKept frames (oscOffset n k) := by
  simp only [List.mem_cons, List.not_mem_nil, or_false] at hk
  unfold oscOffset
  apply stageKept_of_place <;> omega

theorem stageKept_ch {c k frames : Nat} (hc : c < 16) (h4 : k % 4 = 0)
    (hk : (0x14 ≤ k ∧ k < 0x40) ∨ (0x50 ≤ k ∧ k < 0x60)) : StageKept frames (chOffset c k) := by
  unfold chOffset
  apply stageKept_of_place <;> omega

theorem stageKept_ip {i k frames : Nat} (hi : i < 16) (hk : k ∈ [0x0C, 0x10]) :
    StageKept frames (ipOffset i k) := by
  simp only [List.mem_cons, List.not_mem_nil, or_false] at hk
  unfold ipOffset
  apply stageKept_of_place <;> omega

/-- The registers that R145 lists are none of those that a stage writes. -/
theorem destOffset_stageKept {d : Word} (hd : validDestination d) (h0 : d ≠ 0) (frames : Nat) :
    StageKept frames (destOffset d) := by
  obtain h | ⟨-, hopc, hunit, htap, hcoef, -⟩ := hd
  · exact absurd h h0
  simp only [destOffset, headerOpc_toNat, headerUnit_toNat, headerSub_toNat]
  generalize headerField d 24 = o at *
  generalize headerField d 16 = u at *
  generalize headerField d 8 = t at *
  split
  case h_1 | h_2 | h_3 => exact stageKept_osc hunit (by decide)
  case h_4 =>
    have := htap rfl
    exact stageKept_ch hunit (by omega) (by omega)
  case h_7 =>
    have := hcoef rfl
    exact stageKept_ch hunit (by omega) (by omega)
  case h_5 | h_6 | h_8 | h_9 | h_10 | h_11 => exact stageKept_ch hunit (by decide) (by decide)
  case h_12 | h_13 => exact stageKept_ip hunit (by decide)
  case h_14 => simp_all

/-- A write to a unit that exists is the write. -/
theorem changesOnly_atUnit {limit : Nat} {unit : Byte} {write : Fin limit → State} {ws : List (Nat × Word)}
    (hu : unit.toNat < limit) (hw : ChangesOnly s (write ⟨unit.toNat, hu⟩) ws) :
    ChangesOnly s (atUnit unit write s) ws := by
  rwa [atUnit, dif_pos hu]

/-- The write through a valid destination changes the register that it names, and nothing else (R146). -/
theorem changesOnly_writeDest (s : State) {d : Word} (hd : validDestination d) (h0 : d ≠ 0) (a : Word) :
    ChangesOnly s (s.writeDest d a) [(destOffset d, a)] := by
  obtain h | ⟨-, hopc, hunit, htap, hcoef, -⟩ := hd
  · exact absurd h h0
  rw [← headerOpc_toNat] at hopc hunit htap hcoef
  rw [← headerUnit_toNat] at hunit
  rw [← headerSub_toNat] at htap hcoef
  unfold State.writeDest destOffset
  generalize (headerOpc d).toNat = o at *
  split
  case h_1 | h_2 | h_3 =>
    exact changesOnly_atUnit hunit <|
      changesOnly_oscRegisters s _ [_] (by decide) (by simp [oscRegisters, Osc.read])
  case h_4 =>
    exact changesOnly_atUnit hunit <| changesOnly_atUnit (htap rfl) <| changesOnly_writeChTapGain s _ _ a
  case h_7 =>
    exact changesOnly_atUnit hunit <| changesOnly_atUnit (hcoef rfl) <| changesOnly_writeChCoef s _ _ a
  case h_5 => exact changesOnly_atUnit hunit <| changesOnly_chWord s _ 9 rfl (by decide) rfl
  case h_6 => exact changesOnly_atUnit hunit <| changesOnly_chWord s _ 10 rfl (by decide) rfl
  case h_8 => exact changesOnly_atUnit hunit <| changesOnly_chWord s _ 20 rfl (by decide) rfl
  case h_9 => exact changesOnly_atUnit hunit <| changesOnly_chWord s _ 21 rfl (by decide) rfl
  case h_10 => exact changesOnly_atUnit hunit <| changesOnly_chWord s _ 22 rfl (by decide) rfl
  case h_11 => exact changesOnly_atUnit hunit <| changesOnly_chWord s _ 23 rfl (by decide) rfl
  case h_12 => exact changesOnly_atUnit hunit <| changesOnly_ipWord s _ 3 rfl (by decide) rfl
  case h_13 => exact changesOnly_atUnit hunit <| changesOnly_ipWord s _ 4 rfl (by decide) rfl
  case h_14 => simp_all

/-! ### What the stages leave -/

theorem stageKept_ne_global {a frames k : Nat} (ha : StageKept frames a)
    (hk : k ∈ [0x010, 0x02C, 0x03C, 0x044, 0x048, 0x04C]) : k ≠ a := by
  rintro rfl
  exact ha.2 (.inl hk)

theorem stageKept_ne_osc {a frames k : Nat} (ha : StageKept frames a) (n : Fin Config.nosc)
    (hk : k ∈ [0x08, 0x1C]) : oscOffset n k ≠ a := by
  rintro rfl
  exact ha.2 (.inr (.inl ⟨n, k, hk, rfl⟩))

theorem stageKept_ne_ch {a frames k : Nat} (ha : StageKept frames a) (c : Fin Config.nch)
    (hk : k ∈ [0x40, 0x44, 0x48, 0x4C, 0x60]) : chOffset c k ≠ a := by
  rintro rfl
  exact ha.2 (.inr (.inr (.inl ⟨c, k, hk, rfl⟩)))

theorem stageKept_ne_ip {a frames : Nat} (ha : StageKept frames a) (i : Fin Config.nip) :
    ipOffset i 0x14 ≠ a := by
  rintro rfl
  exact ha.2 (.inr (.inr (.inr (.inl ⟨i, rfl⟩))))

/-- A frame statement, read at an offset that it does not list. -/
theorem changesOnly_readWord {t : State} {ws : List (Nat × Word)} {a : Nat} (h : ChangesOnly s t ws)
    (h4 : a % 4 = 0) (ha : ∀ o ∈ ws.map Prod.fst, o ≠ a) : t.readWord a = s.readWord a := by
  obtain ⟨-, others, -, -⟩ := h
  exact others a h4 fun p hp => ha _ (List.mem_map_of_mem hp)

/-- A firing writes PHASE, OUT and STATUS (R103). -/
theorem fire_readWord {a frames : Nat} (ha : StageKept frames a) (s : State) (n : Fin Config.nosc) :
    (s.fire n).readWord a = s.readWord a := by
  have hfired : ∀ k ∈ oscRegisters, k ∉ [0x08, 0x1C] → s.osc[n].fired.read k = s.osc[n].read k := by
    rw [osc_fired_eq]; simp [oscRegisters, Osc.read]
  rw [fire_eq_noteRange]
  refine changesOnly_readWord (changesOnly_oscRegisters_noteRange s n _ [0x08, 0x1C] (by decide) hfired)
    ha.1 ?_
  simp only [List.map_cons, List.map_nil, List.cons_append, List.nil_append, List.forall_mem_cons]
  exact ⟨stageKept_ne_osc ha n (by decide), stageKept_ne_osc ha n (by decide),
    stageKept_ne_global ha (by decide), by simp⟩

theorem fireIf_readWord {a frames : Nat} (ha : StageKept frames a) (s : State) (mode : BitVec 2)
    (n : Fin Config.nosc) : (s.fireIf mode n).readWord a = s.readWord a := by
  rcases fireIf_cases s mode n with ⟨-, -, e⟩ | ⟨-, e⟩ <;> rw [e]
  exact fire_readWord ha s n

theorem drawSource_readWord {a frames : Nat} (ha : StageKept frames a) (s : State) (src : Word) :
    (s.drawSource src).readWord a = s.readWord a := by
  rcases drawSource_cases s src with e | ⟨hn, -, -, e⟩ <;> rw [e]
  exact fire_readWord ha s _

/-- A channel's frame writes its history, its OUT and STATUS (R125, R127). -/
theorem runChannelIf_readWord {a frames : Nat} (ha : StageKept frames a) (s : State)
    (c : Fin Config.nch) : (s.runChannelIf c).readWord a = s.readWord a := by
  rcases runChannelIf_cases s c with ⟨-, e⟩ | ⟨-, e⟩ <;> rw [e]
  have hstore : ∀ j, j ∉ [16, 17, 18, 19, 24] →
      (s.ch[c].store (s.ch[c].compute s.oscOut)).words[j]? = s.ch[c].words[j]? := by
    intro j hj
    rw [channel_store_eq]
    rcases lt_or_ge j 25 with hlt | hge
    · interval_cases j <;> simp [Channel.words] at hj ⊢
    · simp [Channel.words, hge]
  rw [State.runChannel]
  refine (changesOnly_readWord (changesOnly_noteSat _ _) ha.1 ?_).trans
    (changesOnly_readWord (changesOnly_chWords s c [16, 17, 18, 19, 24] (by decide) hstore) ha.1 ?_)
  · simpa using stageKept_ne_global ha (k := 0x010) (by decide)
  · simp only [List.map_cons, List.map_nil, List.forall_mem_cons]
    exact ⟨stageKept_ne_ch ha c (by decide), stageKept_ne_ch ha c (by decide),
      stageKept_ne_ch ha c (by decide), stageKept_ne_ch ha c (by decide),
      stageKept_ne_ch ha c (by decide), by simp⟩

/-- The globals that a RENDER leaves (R164). -/
theorem rendered_readGlobal {t : State} (h : Rendered s t) {a : Nat}
    (ha : a ∉ [0x010, 0x02C, 0x03C, 0x044, 0x048, 0x04C]) : t.readGlobal a = s.readGlobal a := by
  simp only [List.mem_cons, List.not_mem_nil, or_false, not_or] at ha
  obtain ⟨h10, h2C, h3C, h44, h48, h4C⟩ := ha
  rw [← h.globals]
  unfold State.readGlobal
  split
  case h_5 | h_12 | h_16 | h_18 | h_19 | h_20 => contradiction
  all_goals rfl

@[simp] theorem advanceRamp_outbuf (s : State) : s.advanceRamp.outbuf = s.outbuf := by
  rcases advanceRamp_cases s with ⟨-, e⟩ | ⟨-, e⟩ | ⟨-, e⟩ <;> rw [e]

@[simp] theorem advanceRamp_powerOns (s : State) : s.advanceRamp.powerOns = s.powerOns := by
  rcases advanceRamp_cases s with ⟨-, e⟩ | ⟨-, e⟩ | ⟨-, e⟩ <;> rw [e]

/-- Stages 5 and 6 write globals and one entry of OUTBUF (R169, R170). -/
theorem stageOutput_readWord {a frames : Nat} (ha : StageKept frames a) (s : State) {i : Nat}
    (hi : i < frames) : (s.stageOutput i).readWord a = s.readWord a := by
  have hb : ¬(0x8000 ≤ a ∧ a < 0x8000 + 8 * frames) := fun h => ha.2 (.inr (.inr (.inr (.inr h))))
  rcases readWord_cases a with h | ⟨m, k, h, rfl⟩ | ⟨c, k, h, rfl⟩ | ⟨j, k, h, rfl⟩ | h | h
  · rw [readWord_global _ h, readWord_global _ h]
    exact rendered_readGlobal (rendered_stageOutput (rendered_refl s) i) fun hk => ha.2 (.inl hk)
  · rw [readWord_osc _ m h, readWord_osc _ m h]; simp only [stageOutput_osc]
  · rw [readWord_ch _ c h, readWord_ch _ c h]; simp only [stageOutput_ch]
  · rw [readWord_ip _ j h, readWord_ip _ j h]; simp only [stageOutput_ip]
  · have hbyte (o : Nat) (ho : a ≤ o) : (s.stageOutput i).outbufByte o = s.outbufByte o := by
      refine (writeFrame_outbufByte_other _ i _ _ (.inr ?_)).trans ?_
      · rw [outbufOffset]; omega
      · simp only [State.outbufByte, noteSat_outbuf, noteSat_powerOns, advanceRamp_outbuf,
          advanceRamp_powerOns]
    rw [readWord_outbuf _ h.1 h.2, readWord_outbuf _ h.1 h.2, State.outbufWord, State.outbufWord,
      hbyte _ (by omega), hbyte _ (by omega), hbyte _ (by omega), hbyte _ (by omega)]
  · rw [h, h]

/-! ### One turn of an oscillator -/

/-- What stage 1 or 3, or a read, makes of an oscillator: a firing where it is enabled in the mode (R110). -/
def Osc.firedIn (mode : BitVec 2) (o : Osc) : Osc := if o.en = true ∧ o.mode = mode then o.fired else o

theorem fire_osc_eq (s : State) (n : Fin Config.nosc) : (s.fire n).osc = (s.modifyOsc n Osc.fired).osc := by
  rw [fire_eq_noteRange, noteRange_osc]

theorem fireIf_osc_eq (s : State) (mode : BitVec 2) (n : Fin Config.nosc) :
    (s.fireIf mode n).osc = (s.modifyOsc n (Osc.firedIn mode)).osc := by
  rcases fireIf_cases s mode n with ⟨hen, hmode, e⟩ | ⟨h, e⟩ <;> rw [e]
  · rw [fire_osc_eq, State.modifyOsc, State.modifyOsc, Osc.firedIn, if_pos ⟨hen, hmode⟩]
  · rw [State.modifyOsc, Osc.firedIn, if_neg h]; simp

/-- Stages 1 and 3 in full, oscillator by oscillator (R165, R167). -/
theorem forUnits_fireIf_osc (s : State) (mode : BitVec 2) (n : Fin Config.nosc) :
    (forUnits Config.nosc (fun m s => s.fireIf mode m) s).osc[n] = s.osc[n].firedIn mode :=
  forUnits_once (fun t => t.osc[n]) n
    (fun m t hm => by simp only [fireIf_osc_eq]; exact modifyOsc_osc_other t _ (Ne.symm hm))
    (Osc.firedIn mode) (fun t => by simp only [fireIf_osc_eq]; exact modifyOsc_osc_same t n _) s

@[simp] theorem fireIf_ip (s : State) (mode : BitVec 2) (n : Fin Config.nosc) :
    (s.fireIf mode n).ip = s.ip := by
  rcases fireIf_cases s mode n with ⟨-, -, e⟩ | ⟨-, e⟩ <;> rw [e]
  rw [fire_eq]

@[simp] theorem runChannelIf_ip (s : State) (c : Fin Config.nch) : (s.runChannelIf c).ip = s.ip := by
  rcases runChannelIf_cases s c with ⟨-, e⟩ | ⟨-, e⟩ <;> rw [e]
  rw [runChannel_eq]

@[simp] theorem runChannelIf_osc (s : State) (c : Fin Config.nch) : (s.runChannelIf c).osc = s.osc := by
  rcases runChannelIf_cases s c with ⟨-, e⟩ | ⟨-, e⟩ <;> rw [e]
  rw [runChannel_eq]

/-- Reading a source draws it (R142) and no other oscillator. -/
theorem drawSource_osc (s : State) {src : Word} (n : Fin Config.nosc) :
    (s.drawSource src).osc[n] =
      if src.toNat = n.val then s.osc[n].firedIn modeLfoPerRead else s.osc[n] := by
  unfold State.drawSource
  split
  case isTrue h =>
    simp only [fireIf_osc_eq]
    by_cases hn : src.toNat = n.val
    · obtain rfl : (⟨src.toNat, h⟩ : Fin Config.nosc) = n := Fin.ext hn
      rw [if_pos rfl]; exact modifyOsc_osc_same s _ _
    · rw [if_neg hn]; exact modifyOsc_osc_other s _ fun e => hn (congrArg Fin.val e).symm
  case isFalse h => rw [if_neg fun hn => h (by omega)]

theorem oscOut_eq (s : State) {src : Word} {n : Fin Config.nosc} (h : src.toNat = n.val) :
    s.oscOut src = fx s.osc[n].out := by
  have hlt : src.toNat < Config.nosc := h ▸ n.isLt
  obtain rfl : (⟨src.toNat, hlt⟩ : Fin Config.nosc) = n := Fin.ext h
  exact dif_pos hlt

/-! ### What a destination's write and a turn of an interpolator leave -/

theorem modifyIp_ip_view (s : State) {α : Type} (view : Interp → α) {f : Interp → Interp}
    (hf : ∀ i, view (f i) = view i) (k j : Fin Config.nip) :
    view (s.modifyIp k f).ip[j] = view s.ip[j] := by
  by_cases hj : j = k
  · subst hj; rw [modifyIp_ip_same, hf]
  · rw [modifyIp_ip_other _ _ hj]

/-- A destination names PW, FMUL or POFF of an oscillator (R145), so its write leaves every view of the unit
that reads none of them. -/
theorem writeDest_osc_view (s : State) (d a : Word) {α : Type} (view : Osc → α)
    (hv : ∀ o pw fmul poff, view { o with pw := pw, fmul := fmul, poff := poff } = view o)
    (n : Fin Config.nosc) : view (s.writeDest d a).osc[n] = view s.osc[n] := by
  rcases writeDest_cases s d a with e | ⟨m, f, e, hf⟩ | ⟨c, f, e, -⟩ | ⟨k, f, e, -⟩ <;> rw [e]
  · refine modifyOsc_osc_view s view (fun o => ?_) m n
    rcases hf with rfl | rfl | rfl
    · exact hv o a o.fmul o.poff
    · exact hv o o.pw a o.poff
    · exact hv o o.pw o.fmul a
  · rw [modifyCh_osc]
  · rw [modifyIp_osc]

/-- Of an interpolator a destination names MIN or MAX (R145). -/
theorem writeDest_ip_view (s : State) (d a : Word) {α : Type} (view : Interp → α)
    (hv : ∀ i lo hi, view { i with minVal := lo, maxVal := hi } = view i) (j : Fin Config.nip) :
    view (s.writeDest d a).ip[j] = view s.ip[j] := by
  rcases writeDest_cases s d a with e | ⟨m, f, e, -⟩ | ⟨c, f, e, -⟩ | ⟨k, f, e, hf⟩ <;> rw [e]
  · rw [modifyOsc_ip]
  · rw [modifyCh_ip]
  · refine modifyIp_ip_view s view (fun i => ?_) k j
    rcases hf with rfl | rfl
    · exact hv i a i.maxVal
    · exact hv i i.minVal a

/-- The value that interpolator `k` computes on source `src`, before its sat32 (R143). -/
def State.mapped (s : State) (k : Fin Config.nip) (src : Word) : Int := s.ip[k].mapRaw (s.oscOut src)

/-- OUT takes the mapped value, with its saturation noted (R143). -/
def State.storeMapped (s : State) (k : Fin Config.nip) (src : Word) : State :=
  (s.modifyIp k fun i => { i with out := toFx (sat32 (s.mapped k src)) }).noteSat
    (saturates (s.mapped k src))

/-- The mapped value goes to OUT, and to the destination where there is one (R143, R146). -/
theorem applyInterp_cases (s : State) (k : Fin Config.nip) (src : Word) :
    (s.ip[k].dest = 0 ∧ s.applyInterp k src = s.storeMapped k src) ∨
    (s.ip[k].dest ≠ 0 ∧ s.applyInterp k src =
      (s.storeMapped k src).writeDest s.ip[k].dest (destWord s.ip[k].dest (sat32 (s.mapped k src)))) := by
  have heq : s.applyInterp k src = if s.ip[k].dest = 0 then s.storeMapped k src else
      (s.storeMapped k src).writeDest s.ip[k].dest (destWord s.ip[k].dest (sat32 (s.mapped k src))) := by
    rw [← destOperand_eq_destWord]; rfl
  by_cases h : s.ip[k].dest = 0
  · exact .inl ⟨h, by rw [heq, if_pos h]⟩
  · exact .inr ⟨h, by rw [heq, if_neg h]⟩

@[simp] theorem storeMapped_osc (s : State) (k : Fin Config.nip) (src : Word) :
    (s.storeMapped k src).osc = s.osc := by
  rw [State.storeMapped, noteSat_osc, modifyIp_osc]

theorem storeMapped_ip (s : State) (k : Fin Config.nip) (src : Word) :
    (s.storeMapped k src).ip =
      (s.modifyIp k fun i => { i with out := toFx (sat32 (s.mapped k src)) }).ip := by
  rw [State.storeMapped, noteSat_ip]

theorem storeMapped_readWord {a frames : Nat} (ha : StageKept frames a) (s : State) (k : Fin Config.nip)
    (src : Word) : (s.storeMapped k src).readWord a = s.readWord a := by
  rw [State.storeMapped]
  refine (changesOnly_readWord (changesOnly_noteSat _ _) ha.1 ?_).trans
    (changesOnly_readWord (changesOnly_ipWord s k (o := 0x14) 5 rfl (by decide) rfl) ha.1 ?_)
  · simpa using stageKept_ne_global ha (k := 0x010) (by decide)
  · simpa using stageKept_ne_ip ha k

theorem applyInterp_readWord {a frames : Nat} (ha : StageKept frames a) (s : State) (k : Fin Config.nip)
    (src : Word) (hd : validDestination s.ip[k].dest) :
    (s.applyInterp k src).readWord a =
      if s.ip[k].dest ≠ 0 ∧ destOffset s.ip[k].dest = a
        then destWord s.ip[k].dest (sat32 (s.mapped k src)) else s.readWord a := by
  rcases applyInterp_cases s k src with ⟨h0, e⟩ | ⟨h0, e⟩ <;> rw [e]
  · rw [if_neg fun h => h.1 h0, storeMapped_readWord ha]
  · have hwrite := changesOnly_writeDest (s.storeMapped k src) hd h0
      (destWord s.ip[k].dest (sat32 (s.mapped k src)))
    by_cases hdest : destOffset s.ip[k].dest = a
    · obtain ⟨written, -, -, -⟩ := hwrite
      rw [if_pos ⟨h0, hdest⟩, ← hdest]
      exact written _ List.mem_cons_self
    · rw [if_neg fun h => hdest h.2, changesOnly_readWord hwrite ha.1 (by simpa using hdest),
        storeMapped_readWord ha]

theorem applyInterp_osc_view (s : State) (k : Fin Config.nip) (src : Word) {α : Type} (view : Osc → α)
    (hv : ∀ o pw fmul poff, view { o with pw := pw, fmul := fmul, poff := poff } = view o)
    (n : Fin Config.nosc) : view (s.applyInterp k src).osc[n] = view s.osc[n] := by
  rcases applyInterp_cases s k src with ⟨-, e⟩ | ⟨-, e⟩ <;> rw [e]
  · rw [storeMapped_osc]
  · rw [writeDest_osc_view _ _ _ view hv, storeMapped_osc]

theorem applyInterp_ip_view (s : State) (k : Fin Config.nip) (src : Word) {α : Type} (view : Interp → α)
    (hv : ∀ i lo hi, view { i with minVal := lo, maxVal := hi } = view i) (j : Fin Config.nip) :
    view (s.applyInterp k src).ip[j] =
      view (s.modifyIp k fun i => { i with out := toFx (sat32 (s.mapped k src)) }).ip[j] := by
  rcases applyInterp_cases s k src with ⟨-, e⟩ | ⟨-, e⟩ <;> rw [e]
  · rw [storeMapped_ip]
  · rw [writeDest_ip_view _ _ _ view hv, storeMapped_ip]

theorem fx_applyInterp_out (s : State) (k : Fin Config.nip) (src : Word) :
    fx (s.applyInterp k src).ip[k].out = sat32 (s.mapped k src) := by
  rw [applyInterp_ip_view s k src Interp.out (fun _ _ _ => rfl), modifyIp_ip_same, fx_toFx_sat32]

/-! ### One turn of an interpolator -/

/-- What an interpolator's turn can do: a draw of its source and the map where it is enabled, else nothing
(R141). -/
theorem runInterpIf_cases (s : State) (k : Fin Config.nip) :
    (s.ip[k].en = true ∧ s.runInterpIf k = (s.drawSource s.ip[k].src).applyInterp k s.ip[k].src) ∨
      (¬s.ip[k].en = true ∧ s.runInterpIf k = s) := by
  by_cases h : s.ip[k].en = true
  · exact .inl ⟨h, if_pos h⟩
  · exact .inr ⟨h, if_neg h⟩

/-- What a run of an interpolator is set up by (R60, R61). -/
def Interp.routing (i : Interp) : Word × Word × Word := (i.ctrl, i.src, i.dest)

theorem runInterpIf_ip_routing (s : State) (k j : Fin Config.nip) :
    (s.runInterpIf k).ip[j].routing = s.ip[j].routing := by
  rcases runInterpIf_cases s k with ⟨-, e⟩ | ⟨-, e⟩ <;> rw [e]
  rw [applyInterp_ip_view _ k _ Interp.routing (fun _ _ _ => rfl)]
  refine (modifyIp_ip_view _ Interp.routing ?_ k j).trans ?_
  · exact fun _ => rfl
  · rw [drawSource_ip]

/-- An interpolator's turn leaves the others' OUT. -/
theorem runInterpIf_ip_out_other (s : State) {k j : Fin Config.nip} (h : j ≠ k) :
    (s.runInterpIf k).ip[j].out = s.ip[j].out := by
  rcases runInterpIf_cases s k with ⟨-, e⟩ | ⟨-, e⟩ <;> rw [e]
  rw [applyInterp_ip_view _ k _ Interp.out (fun _ _ _ => rfl), modifyIp_ip_other _ _ h, drawSource_ip]

/-- Interpolator `k` reads oscillator `n` in each frame (R141, R142). -/
def State.reads (s : State) (k : Fin Config.nip) (n : Fin Config.nosc) : Bool :=
  s.ip[k].en && s.ip[k].src.toNat == n.val

theorem reads_iff (s : State) (k : Fin Config.nip) (n : Fin Config.nosc) :
    s.reads k n = true ↔ s.ip[k].en = true ∧ s.ip[k].src.toNat = n.val := by
  rw [State.reads, Bool.and_eq_true, beq_iff_eq]

theorem drives_iff (s : State) (k : Fin Config.nip) (a : Nat) :
    s.drives k a = true ↔ s.ip[k].en = true ∧ s.ip[k].dest ≠ 0 ∧ destOffset s.ip[k].dest = a := by
  rw [State.drives, Bool.and_eq_true, Bool.and_eq_true, bne_iff_ne, beq_iff_eq, and_assoc]

/-- An interpolator's turn writes its OUT's value to the register that it drives (R146), and to no other
that the stages leave. -/
theorem runInterpIf_readWord {a frames : Nat} (ha : StageKept frames a) (s : State) (k : Fin Config.nip)
    (hd : s.ip[k].en = true → validDestination s.ip[k].dest) :
    (s.runInterpIf k).readWord a =
      if s.drives k a then destWord s.ip[k].dest (fx (s.runInterpIf k).ip[k].out) else s.readWord a := by
  rcases runInterpIf_cases s k with ⟨hen, e⟩ | ⟨hen, e⟩ <;> rw [e]
  · have hip : (s.drawSource s.ip[k].src).ip[k] = s.ip[k] := by simp only [drawSource_ip]
    have hread := applyInterp_readWord ha (s.drawSource s.ip[k].src) k s.ip[k].src (by rw [hip]; exact hd hen)
    rw [hread, hip, fx_applyInterp_out, drawSource_readWord ha]
    simp only [drives_iff, hen, true_and]
  · rw [if_neg fun h => hen ((drives_iff s k a).1 h).1]

/-- The oscillator registers that no destination names (R145). -/
def Osc.undriven (o : Osc) : Word × Word × Word × Word × Word := (o.freq, o.pinc, o.phase, o.ctrl, o.out)

/-- An interpolator's turn draws the oscillator that it reads (R142); PW, FMUL and POFF apart, it leaves
every other. -/
theorem runInterpIf_osc_undriven (s : State) (k : Fin Config.nip) (n : Fin Config.nosc) :
    (s.runInterpIf k).osc[n].undriven =
      (if s.reads k n then s.osc[n].firedIn modeLfoPerRead else s.osc[n]).undriven := by
  rcases runInterpIf_cases s k with ⟨hen, e⟩ | ⟨hen, e⟩ <;> rw [e]
  · rw [applyInterp_osc_view _ k _ Osc.undriven (fun _ _ _ _ => rfl), drawSource_osc]
    simp only [State.reads, hen, Bool.true_and, beq_iff_eq]
  · rw [if_neg fun h => hen ((reads_iff s k n).1 h).1]

/-- An enabled interpolator maps the OUT that its draw leaves, which its map never saturates (R143, R144). -/
theorem runInterpIf_ip_out (s : State) {k : Fin Config.nip} {n : Fin Config.nosc} (h : s.reads k n = true)
    (hrange : OutInRange (s.runInterpIf k).osc[n].out) :
    fx (s.runInterpIf k).ip[k].out =
      affineMap (fx s.ip[k].minVal) (fx s.ip[k].maxVal) (fx (s.runInterpIf k).osc[n].out) := by
  obtain ⟨hen, hsrc⟩ : s.ip[k].en = true ∧ s.ip[k].src.toNat = n.val :=
    (reads_iff s k n).1 h
  have hrun : s.runInterpIf k = (s.drawSource s.ip[k].src).applyInterp k s.ip[k].src := if_pos hen
  have hout : (s.runInterpIf k).osc[n].out = (s.drawSource s.ip[k].src).osc[n].out := by
    rw [hrun, applyInterp_osc_view _ k _ Osc.out (fun _ _ _ _ => rfl)]
  have hip : (s.drawSource s.ip[k].src).ip[k] = s.ip[k] := by rw [drawSource_ip]
  obtain ⟨hlo, hhi⟩ := hrange
  rw [hout] at hlo hhi ⊢
  rw [hrun, fx_applyInterp_out, State.mapped, hip, oscOut_eq _ hsrc,
    (sat32_eq_iff _).2 (mapRaw_not_saturates _ hlo hhi), mapRaw_eq_affineMap]

end Sys2Proof.Machine
end

section
/-! PROOF. Stage 2 of a frame (R147): what each interpolator sees, reads and leaves at its turn, and what of
it stands after the frame (R141 to R148; O45, O46). -/

namespace Sys2Proof.Machine

variable {s : State}

/-! ### Stage 2, interpolator by interpolator (R147) -/

/-- A loop over units runs through the states that its turns leave. -/
theorem forUnits_eq_of_turns {n : Nat} {f : Fin n → State → State} {u : Nat → State}
    (hu : ∀ k : Fin n, u (k.val + 1) = f k (u k.val)) : forUnits n f (u 0) = u n := by
  rw [forUnits, ← Fin.foldl_eq_foldl_finRange]
  induction n with
  | zero => rfl
  | succ n ih =>
    rw [Fin.foldl_succ_last, ih fun k => hu k.castSucc]
    exact (hu (Fin.last n)).symm

/-- The state of a frame from `s` when the turn of interpolator `k` comes. -/
def State.atInterp (s : State) : Nat → State
  | 0 => s.stageLfos
  | k + 1 => if h : k < Config.nip then (s.atInterp k).runInterpIf ⟨k, h⟩ else s.atInterp k

theorem atInterp_succ (s : State) (k : Fin Config.nip) :
    s.atInterp (k.val + 1) = (s.atInterp k.val).runInterpIf k := by
  rw [State.atInterp, dif_pos k.isLt]

theorem stageInterps_eq_atInterp (s : State) : s.stageLfos.stageInterps = s.atInterp 16 :=
  forUnits_eq_of_turns (u := s.atInterp) (atInterp_succ s)

/-- What stage 1 leaves and every interpolator's turn keeps holds at each turn. -/
theorem atInterp_keeps (P : State → Prop) (hlfos : P s.stageLfos)
    (hturn : ∀ k t, P t → P (t.runInterpIf k)) (k : Nat) : P (s.atInterp k) := by
  induction k with
  | zero => exact hlfos
  | succ k ih =>
    rw [State.atInterp]
    split
    · exact hturn _ _ ih
    · exact ih

theorem stageLfos_ip (s : State) : s.stageLfos.ip = s.ip :=
  forUnits_preserves State.ip (fun n t => fireIf_ip t modeLfoOnce n) s

theorem atInterp_ip_routing (s : State) (k : Nat) (j : Fin Config.nip) :
    (s.atInterp k).ip[j].routing = s.ip[j].routing :=
  atInterp_keeps (fun t => t.ip[j].routing = s.ip[j].routing) (by rw [stageLfos_ip])
    (fun m t h => (runInterpIf_ip_routing t m j).trans h) k

theorem drives_congr {t : State} {k : Fin Config.nip} (h : t.ip[k].routing = s.ip[k].routing) (a : Nat) :
    t.drives k a = s.drives k a := by
  simp only [Interp.routing, Prod.mk.injEq] at h
  obtain ⟨hctrl, -, hdest⟩ := h
  rw [State.drives, State.drives, Interp.en, Interp.en, hctrl, hdest]

theorem reads_congr {t : State} {k : Fin Config.nip} (h : t.ip[k].routing = s.ip[k].routing)
    (n : Fin Config.nosc) : t.reads k n = s.reads k n := by
  simp only [Interp.routing, Prod.mk.injEq] at h
  obtain ⟨hctrl, hsrc, -⟩ := h
  rw [State.reads, State.reads, Interp.en, Interp.en, hctrl, hsrc]

/-- Once an interpolator has run, its OUT stands for the rest of the frame. -/
theorem atInterp_ip_out (s : State) (k : Fin Config.nip) {m : Nat} (hm : k.val + 1 ≤ m) :
    (s.atInterp m).ip[k].out = (s.atInterp (k.val + 1)).ip[k].out := by
  induction m, hm using Nat.le_induction with
  | base => rfl
  | succ m hm ih =>
    rw [← ih, State.atInterp]
    split
    · exact runInterpIf_ip_out_other _ (Fin.ne_of_lt hm)
    · rfl

/-! ### The frame after stage 2 -/

variable (i : Nat)

theorem inputsReady_eq_stageOscs (s : State) : s.inputsReady = (s.atInterp 16).stageOscs := by
  rw [State.inputsReady, stageInterps_eq_atInterp]

theorem renderFrame_ip (s : State) : (s.renderFrame i).ip = (s.atInterp 16).ip := by
  rw [renderFrame_eq, stageOutput_ip, inputsReady_eq_stageOscs]
  exact (forUnits_preserves State.ip (fun c t => runChannelIf_ip t c) _).trans
    (forUnits_preserves State.ip (fun n t => fireIf_ip t modeAudio n) _)

theorem renderFrame_ip_out (s : State) (k : Fin Config.nip) :
    (s.renderFrame i).ip[k].out = (s.atInterp (k.val + 1)).ip[k].out := by
  rw [renderFrame_ip]
  exact atInterp_ip_out s k k.isLt

theorem renderFrame_osc (s : State) (n : Fin Config.nosc) :
    (s.renderFrame i).osc[n] = (s.atInterp 16).osc[n].firedIn modeAudio := by
  rw [← forUnits_fireIf_osc, renderFrame_eq, stageOutput_osc, inputsReady_eq_stageOscs]
  exact congrArg (fun v : Vector Osc Config.nosc => v[n])
    (forUnits_preserves State.osc (fun c t => runChannelIf_osc t c) _)

theorem renderFrame_readWord {a frames : Nat} (ha : StageKept frames a) (s : State) {i : Nat}
    (hi : i < frames) : (s.renderFrame i).readWord a = (s.atInterp 16).readWord a := by
  rw [renderFrame_eq, stageOutput_readWord ha _ hi, inputsReady_eq_stageOscs]
  exact (forUnits_preserves (·.readWord a) (fun c t => runChannelIf_readWord ha t c) _).trans
    (forUnits_preserves (·.readWord a) (fun n t => fireIf_readWord ha t modeAudio n) _)

/-! ### What each interpolator sees (R147) -/

/-- At its turn an interpolator finds in a register what the lower ones that drive it left. -/
theorem atInterp_readWord (hd : s.destsValid) {a frames : Nat} (ha : StageKept frames a) {k : Nat}
    (hk : k ≤ 16) : (s.atInterp k).readWord a = s.seenBy (s.renderFrame i) k a := by
  induction k with
  | zero => exact forUnits_preserves (·.readWord a) (fun n t => fireIf_readWord ha t modeLfoOnce n) s
  | succ k ih =>
    obtain ⟨k, rfl⟩ : ∃ j : Fin Config.nip, j.val = k := ⟨⟨k, hk⟩, rfl⟩
    have hrouting := atInterp_ip_routing s k.val k
    obtain ⟨hctrl, -, hdest⟩ : _ ∧ _ ∧ _ := by simpa only [Interp.routing, Prod.mk.injEq] using hrouting
    have hvalid : (s.atInterp k.val).ip[k].en = true → validDestination (s.atInterp k.val).ip[k].dest := by
      rw [Interp.en, hctrl, hdest]; exact hd k
    rw [seenBy_succ, renderFrame_ip_out, atInterp_succ, runInterpIf_readWord ha _ k hvalid,
      drives_congr hrouting, hdest, ih (by omega)]

/-- What a register holds after the frame is what an interpolator above all others would see (R146). -/
theorem renderFrame_readWord_eq_seenBy (hd : s.destsValid) {a frames : Nat} (ha : StageKept frames a)
    (hi : i < frames) : (s.renderFrame i).readWord a = s.seenBy (s.renderFrame i) 16 a := by
  rw [renderFrame_readWord ha s hi, atInterp_readWord i hd ha le_rfl]

/-- Interpolators that do not drive a register leave it for the higher ones to see. -/
theorem seenBy_eq_of_not_driven (s t : State) {a k m : Nat} (hkm : k ≤ m)
    (hnone : ∀ j : Fin Config.nip, k ≤ j.val → s.drives j a = false) : s.seenBy t m a = s.seenBy t k a := by
  induction m, hkm using Nat.le_induction with
  | base => rfl
  | succ m hm ih =>
    rw [State.seenBy]
    split
    · rw [if_neg (by rw [hnone _ hm]; decide), ih]
    · exact ih

/-- The destination clause: the highest interpolator that drives a register leaves its value there (R146,
R147). -/
theorem renderFrame_writes_destination (hd : s.destsValid) {k : Fin Config.nip} (hen : s.ip[k].en = true)
    (h0 : s.ip[k].dest ≠ 0)
    (hlast : ∀ j : Fin Config.nip, k < j → s.drives j (destOffset s.ip[k].dest) = false) :
    (s.renderFrame 0).readWord (destOffset s.ip[k].dest) =
      destWord s.ip[k].dest (fx (s.renderFrame 0).ip[k].out) := by
  have hdrives : s.drives k (destOffset s.ip[k].dest) = true :=
    (drives_iff s k _).2 ⟨hen, h0, rfl⟩
  rw [renderFrame_readWord_eq_seenBy 0 hd (destOffset_stageKept (hd k hen) h0 1) one_pos,
    seenBy_eq_of_not_driven s _ (k := k.val + 1) k.isLt hlast, seenBy_succ, if_pos hdrives]

/-! ### What each interpolator reads (R142) -/

theorem inputsKept_atInterp (h : Inv s) (k : Nat) : InputsKept s (s.atInterp k) :=
  atInterp_keeps (InputsKept s) (inputsKept_stageLfos (inputsKept_refl h))
    (fun j _ ht => inputsKept_runInterpIf ht j) k

/-- No stage writes an oscillator's CTRL, and no destination names it. -/
theorem atInterp_osc_ctrl (s : State) (k : Nat) (n : Fin Config.nosc) :
    (s.atInterp k).osc[n].ctrl = s.osc[n].ctrl := by
  have hlfos : AtRestKept s s.stageLfos :=
    forUnits_keeps (AtRestKept s) (fun m _ ht => atRestKept_fireIf ht modeLfoOnce m)
      ⟨fun _ => rfl, fun _ => rfl, fun _ => rfl⟩
  have kept := atInterp_keeps (AtRestKept s) hlfos (fun j _ ht => atRestKept_runInterpIf ht j) k
  exact congrArg Prod.fst (kept.osc n)

theorem firedIn_eq_fired {o o' : Osc} {mode : BitVec 2} (hctrl : o.ctrl = o'.ctrl) (hen : o'.en = true)
    (hmode : o'.mode = mode) : o.firedIn mode = o.fired := by
  have h : o.en = true ∧ o.mode = mode := by rw [Osc.en, Osc.mode, hctrl]; exact ⟨hen, hmode⟩
  rw [Osc.firedIn, if_pos h]

theorem firedIn_eq_self {o o' : Osc} {mode : BitVec 2} (hctrl : o.ctrl = o'.ctrl)
    (h : ¬(o'.en = true ∧ o'.mode = mode)) : o.firedIn mode = o := by
  have h : ¬(o.en = true ∧ o.mode = mode) := by rw [Osc.en, Osc.mode, hctrl]; exact h
  rw [Osc.firedIn, if_neg h]

/-- An interpolator's turn, seen from an oscillator: a draw where it reads it, else nothing but a change of
PW, FMUL or POFF. -/
theorem atInterp_succ_osc_undriven (s : State) (k : Fin Config.nip) (n : Fin Config.nosc) :
    (s.atInterp (k.val + 1)).osc[n].undriven =
      (if s.reads k n then (s.atInterp k.val).osc[n].firedIn modeLfoPerRead
        else (s.atInterp k.val).osc[n]).undriven := by
  rw [atInterp_succ, runInterpIf_osc_undriven, reads_congr (atInterp_ip_routing s k.val k)]

/-- Without a draw an oscillator's OUT stands through stage 2. -/
theorem atInterp_osc_out_of_no_draw (s : State) {n : Fin Config.nosc} {k m : Nat} (hkm : k ≤ m)
    (hm : m ≤ 16) (hnone : s.osc[n].en = true → s.osc[n].mode = modeLfoPerRead →
      ∀ j : Fin Config.nip, k ≤ j.val → s.reads j n = false) :
    (s.atInterp m).osc[n].out = (s.atInterp k).osc[n].out := by
  induction m, hkm using Nat.le_induction with
  | base => rfl
  | succ m hle ih =>
    obtain ⟨m, rfl⟩ : ∃ j : Fin Config.nip, j.val = m := ⟨⟨m, hm⟩, rfl⟩
    have hturn := atInterp_succ_osc_undriven s m n
    have hidle : (if s.reads m n then (s.atInterp m.val).osc[n].firedIn modeLfoPerRead
        else (s.atInterp m.val).osc[n]) = (s.atInterp m.val).osc[n] := by
      split
      case isTrue hreads =>
        refine firedIn_eq_self (atInterp_osc_ctrl s m.val n) fun h => ?_
        rw [hnone h.1 h.2 m hle] at hreads
        contradiction
      case isFalse => rfl
    rw [hidle] at hturn
    simp only [Osc.undriven, Prod.mk.injEq] at hturn
    obtain ⟨-, -, -, -, hout⟩ := hturn
    rw [hout, ih (by omega) hnone]

/-- An interpolator that reads oscillator `n` maps the OUT that its turn leaves there, with the MIN and MAX
that it sees (R143). -/
theorem renderFrame_maps (hd : s.destsValid) {k : Fin Config.nip} {n : Fin Config.nosc}
    (hreads : s.reads k n = true) (hrange : OutInRange (s.atInterp (k.val + 1)).osc[n].out) :
    fx (s.renderFrame i).ip[k].out =
      affineMap (fx (s.seenBy (s.renderFrame i) k (ipOffset k 0x0C)))
        (fx (s.seenBy (s.renderFrame i) k (ipOffset k 0x10))) (fx (s.atInterp (k.val + 1)).osc[n].out) := by
  have hreads' : (s.atInterp k.val).reads k n = true := by
    rw [reads_congr (atInterp_ip_routing s k.val k), hreads]
  have hmin : (s.atInterp k.val).ip[k].minVal = s.seenBy (s.renderFrame i) k (ipOffset k 0x0C) := by
    rw [← atInterp_readWord i hd (stageKept_ip (frames := 1) k.isLt (by decide)) k.isLt.le]
    exact (readWord_ip _ k (k := 0x0C) (by decide)).symm
  have hmax : (s.atInterp k.val).ip[k].maxVal = s.seenBy (s.renderFrame i) k (ipOffset k 0x10) := by
    rw [← atInterp_readWord i hd (stageKept_ip (frames := 1) k.isLt (by decide)) k.isLt.le]
    exact (readWord_ip _ k (k := 0x10) (by decide)).symm
  rw [atInterp_succ] at hrange
  rw [renderFrame_ip_out, atInterp_succ, runInterpIf_ip_out _ hreads' hrange, hmin, hmax]

/-! ### The draws of a LFO_PER_READ oscillator (R142, R148) -/

/-- An oscillator with PW, FMUL and POFF as interpolator `k` sees them in a frame from `s` to `t`. -/
def State.tunedBy (s t : State) (n : Fin Config.nosc) (k : Nat) (o : Osc) : Osc :=
  { o with
    pw := s.seenBy t k (oscOffset n 0x10)
    fmul := s.seenBy t k (oscOffset n 0x14)
    poff := s.seenBy t k (oscOffset n 0x18) }

theorem drawnBy_succ_tunedBy (s t : State) (n : Fin Config.nosc) (k : Fin Config.nip) :
    s.drawnBy t n (k.val + 1) =
      if s.reads k n then (s.tunedBy t n k.val (s.drawnBy t n k.val)).fired else s.drawnBy t n k.val :=
  drawnBy_succ s t n k

/-- At an interpolator's turn an oscillator's PW, FMUL and POFF are what that interpolator sees. -/
theorem atInterp_osc_eq_tunedBy (hd : s.destsValid) {n : Fin Config.nosc} {k : Nat} (hk : k ≤ 16) {o : Osc}
    (h : (s.atInterp k).osc[n].undriven = o.undriven) :
    (s.atInterp k).osc[n] = s.tunedBy (s.renderFrame i) n k o := by
  have hseen {r : Nat} (hr : r ∈ [0x10, 0x14, 0x18]) :
      (s.atInterp k).osc[n].read r = s.seenBy (s.renderFrame i) k (oscOffset n r) := by
    rw [← atInterp_readWord i hd (stageKept_osc (frames := 1) n.isLt hr) hk]
    refine (readWord_osc _ n ?_).symm
    simp only [List.mem_cons, List.not_mem_nil, or_false] at hr
    omega
  have hpw := hseen (r := 0x10) (by decide)
  have hfmul := hseen (r := 0x14) (by decide)
  have hpoff := hseen (r := 0x18) (by decide)
  simp only [Osc.undriven, Prod.mk.injEq] at h
  obtain ⟨hfreq, hpinc, hphase, hctrl, hout⟩ := h
  rw [State.tunedBy, ← hpw, ← hfmul, ← hpoff, ← hfreq, ← hpinc, ← hphase, ← hctrl, ← hout]
  rfl

/-- At an interpolator's turn a LFO_PER_READ oscillator is drawn once for each lower reader. -/
theorem atInterp_osc_eq_drawnBy (hd : s.destsValid) {n : Fin Config.nosc} (hen : s.osc[n].en = true)
    (hmode : s.osc[n].mode = modeLfoPerRead) {k : Nat} (hk : k ≤ 16) :
    (s.atInterp k).osc[n] =
      s.tunedBy (s.renderFrame i) n k (s.drawnBy (s.renderFrame i) n k) := by
  induction k with
  | zero =>
    have hidle : s.osc[n].firedIn modeLfoOnce = s.osc[n] :=
      firedIn_eq_self rfl fun h => absurd (hmode.symm.trans h.2) (by decide)
    refine atInterp_osc_eq_tunedBy i hd hk (congrArg Osc.undriven ?_)
    exact (forUnits_fireIf_osc s modeLfoOnce n).trans hidle
  | succ k ih =>
    obtain ⟨k, rfl⟩ : ∃ j : Fin Config.nip, j.val = k := ⟨⟨k, hk⟩, rfl⟩
    refine atInterp_osc_eq_tunedBy i hd hk ?_
    rw [atInterp_succ_osc_undriven, firedIn_eq_fired (atInterp_osc_ctrl s k.val n) hen hmode,
      drawnBy_succ_tunedBy, ih (by omega)]
    split <;> rfl

theorem renderFrame_osc_eq_drawnBy (hd : s.destsValid) {n : Fin Config.nosc} (hen : s.osc[n].en = true)
    (hmode : s.osc[n].mode = modeLfoPerRead) :
    (s.renderFrame i).osc[n] =
      s.tunedBy (s.renderFrame i) n 16 (s.drawnBy (s.renderFrame i) n 16) := by
  rw [← atInterp_osc_eq_drawnBy i hd hen hmode le_rfl, renderFrame_osc]
  exact firedIn_eq_self (atInterp_osc_ctrl s 16 n) fun h => absurd (hmode.symm.trans h.2) (by decide)

/-! ### The draws where no interpolator drives the oscillator -/

/-- The interpolators below `k` that read oscillator `n`. -/
def State.readersBelow (s : State) (n : Fin Config.nosc) (k : Nat) : Nat :=
  (List.finRange Config.nip).countP fun j => decide (j.val < k) && s.reads j n

theorem readersUpTo_eq_readersBelow (s : State) (n : Fin Config.nosc) (k : Nat) :
    s.readersUpTo n k = s.readersBelow n (k + 1) := by
  simp only [State.readersUpTo, State.readersBelow, State.reads, Nat.lt_succ_iff, Bool.and_assoc]

/-- Counting below `k + 1` counts below `k`, and `k` itself as often as it is listed. -/
theorem countP_below_succ {n : Nat} (q : Fin n → Bool) (k : Fin n) (js : List (Fin n)) :
    (js.countP fun j => decide (j.val < k.val + 1) && q j) =
      (js.countP fun j => decide (j.val < k.val) && q j) + if q k then js.count k else 0 := by
  induction js with
  | nil => simp
  | cons j js ih =>
    rw [List.countP_cons, List.countP_cons, List.count_cons, ih]
    rcases lt_trichotomy j k with hlt | rfl | hgt
    · simp [Fin.lt_def.1 hlt, hlt.ne, hlt.le, Nat.add_right_comm]
    · cases q j <;> simp [Nat.add_assoc]
    · simp [(Fin.lt_def.1 hgt).not_gt, hgt.ne', hgt.not_ge]

/-- One interpolator more is one reader more where it reads the oscillator. -/
theorem readersBelow_succ (s : State) (n : Fin Config.nosc) (k : Fin Config.nip) :
    s.readersBelow n (k.val + 1) = s.readersBelow n k.val + if s.reads k n then 1 else 0 := by
  have hone : (List.finRange Config.nip).count k = 1 :=
    List.count_eq_one_of_mem (List.nodup_finRange _) (List.mem_finRange k)
  rw [State.readersBelow, countP_below_succ, hone, State.readersBelow]

/-- A firing leaves PW, FMUL and POFF (R103). -/
theorem iterate_fired_tuning (o : Osc) (k : Nat) :
    (Osc.fired^[k] o).pw = o.pw ∧ (Osc.fired^[k] o).fmul = o.fmul ∧ (Osc.fired^[k] o).poff = o.poff := by
  induction k with
  | zero => exact ⟨rfl, rfl, rfl⟩
  | succ k ih => rw [Function.iterate_succ_apply', osc_fired_eq]; exact ih

section Undriven

variable {t : State} {n : Fin Config.nosc}
  (hnone : ∀ k : Fin Config.nip, s.drives k (oscOffset n 0x10) = false ∧
    s.drives k (oscOffset n 0x14) = false ∧ s.drives k (oscOffset n 0x18) = false)

include hnone

/-- Where nothing drives the oscillator, every interpolator sees it as it was before the frame. -/
theorem tunedBy_iterate_of_not_driven (k m : Nat) :
    s.tunedBy t n k (Osc.fired^[m] s.osc[n]) = Osc.fired^[m] s.osc[n] := by
  obtain ⟨hpw, hfmul, hpoff⟩ := iterate_fired_tuning s.osc[n] m
  have hseen {r : Nat} (hr : r < 0x20) (h : ∀ j : Fin Config.nip, s.drives j (oscOffset n r) = false) :
      s.seenBy t k (oscOffset n r) = s.osc[n].read r := by
    rw [seenBy_eq_of_not_driven s t k.zero_le fun j _ => h j]
    exact readWord_osc s n hr
  rw [State.tunedBy, hseen (by decide) fun j => (hnone j).1, hseen (by decide) fun j => (hnone j).2.1,
    hseen (by decide) fun j => (hnone j).2.2]
  simp only [Osc.read, ← hpw, ← hfmul, ← hpoff]

theorem drawnBy_of_not_driven {k : Nat} (hk : k ≤ 16) :
    s.drawnBy t n k = Osc.fired^[s.readersBelow n k] s.osc[n] := by
  induction k with
  | zero => simp [State.readersBelow]
  | succ k ih =>
    obtain ⟨k, rfl⟩ : ∃ j : Fin Config.nip, j.val = k := ⟨⟨k, hk⟩, rfl⟩
    rw [drawnBy_succ_tunedBy, readersBelow_succ, ih (by omega), tunedBy_iterate_of_not_driven hnone]
    split
    · exact (Function.iterate_succ_apply' _ _ _).symm
    · rfl

end Undriven

end Sys2Proof.Machine

open Sys2Proof Sys2Proof.Machine

/-- Settles O45: the oscillator is what the readers' draws leave, and each reader maps the OUT of its own
draw, which is in [-1, 1]. -/
theorem perReadOscillatorDrawsPerReader : Obligations.PerReadOscillatorDrawsPerReader := by
  intro s harg hmax hd
  refine ⟨s.renderFrame 0, exec_render_one hmax harg, fun n hen hmode => ?_⟩
  have hosc := renderFrame_osc_eq_drawnBy 0 hd hen hmode
  refine ⟨by rw [hosc]; rfl, by rw [hosc]; rfl, fun k hk hsrc => ⟨?mapped, fun h0 hlast => ?written⟩,
    fun hnone => ⟨?final, fun k => ?drawn⟩⟩
  case mapped =>
    have hreads := (reads_iff s k n).2 ⟨hk, hsrc⟩
    have hout : (s.atInterp (k.val + 1)).osc[n].out = (s.drawnBy (s.renderFrame 0) n (k.val + 1)).out := by
      rw [atInterp_osc_eq_drawnBy 0 hd hen hmode k.isLt]; rfl
    have hrange : OutInRange (s.atInterp (k.val + 1)).osc[n].out := by
      rw [hout, drawnBy_succ_tunedBy, if_pos hreads]; exact osc_fired_outInRange _
    rw [renderFrame_maps 0 hd hreads hrange, hout]
  case written => exact renderFrame_writes_destination hd hk h0 hlast
  case final =>
    rw [hosc, drawnBy_of_not_driven hnone le_rfl, tunedBy_iterate_of_not_driven hnone,
      readersUpTo_eq_readersBelow]
  case drawn => rw [drawnBy_of_not_driven hnone k.isLt, readersUpTo_eq_readersBelow]

/-- Settles O46: after its reader's turn the source keeps its OUT until stage 3, which fires it where it is an
AUDIO oscillator; such a source has its OUT from the frame before. -/
theorem interpolatorMapsSourceToDestination : Obligations.InterpolatorMapsSourceToDestination := by
  intro s k n h harg hk hsrc
  have hd : s.destsValid := fun j _ => (destLegal_iff _).1 (h.dest j)
  have hreads := (reads_iff s k n).2 ⟨hk, hsrc⟩
  refine ⟨s.renderFrame 0, exec_render_one h.maxBlock.1 harg, fun hlast => ?mapped,
    renderFrame_writes_destination hd hk⟩
  case mapped =>
    have hsource : (s.atInterp (k.val + 1)).osc[n].out =
        if s.osc[n].en = true ∧ s.osc[n].mode = modeAudio then s.osc[n].out
          else (s.renderFrame 0).osc[n].out := by
      split
      case isTrue haudio =>
        have hmode {mode : BitVec 2} (hne : mode ≠ modeAudio) : ¬s.osc[n].mode = mode :=
          fun h => hne (h.symm.trans haudio.2)
        have hidle : s.osc[n].firedIn modeLfoOnce = s.osc[n] :=
          firedIn_eq_self rfl fun h => hmode (by decide) h.2
        rw [atInterp_osc_out_of_no_draw s (k.val + 1).zero_le k.isLt fun _ h => absurd h (hmode (by decide))]
        exact congrArg Osc.out ((forUnits_fireIf_osc s modeLfoOnce n).trans hidle)
      case isFalse haudio =>
        rw [renderFrame_osc, firedIn_eq_self (atInterp_osc_ctrl s 16 n) haudio]
        refine (atInterp_osc_out_of_no_draw s (n := n) k.isLt le_rfl fun hen hmode j hj => ?_).symm
        rw [← Bool.not_eq_true, reads_iff]
        exact fun h => hlast hen hmode j hj h.1 h.2
    rw [renderFrame_maps 0 hd hreads ((inputsKept_atInterp h _).outs n), hsource, apply_ite fx]
end

section
/-! PROOF. What a step keeps, packaged once by the event that is next; and what stages 1 to 4 of a frame
leave: everything but the units and STATUS (R164 to R168). -/

namespace Sys2Proof.Machine

variable {s : State}

/-! ### What a step keeps -/

/-- What every command, a failing one, the bus's own bookkeeping and the hardware reset keep, every step
keeps. -/
theorem step_keeps {P : State → Prop} (hexec : ∀ (i : Instr) (s : State), P s → Leaves (exec i s) P)
    (hfail : ∀ (s : State) (e : CmdErr) (h : Word), P s → P (s.cmdError e h))
    (hbus : ∀ (s : State) (events : List BusEvent) (response : Option BusResponse) (arg cmd : Word),
      P s → P { s with events := events, response := response, cmdArg := arg, cmd := cmd })
    (hreset : ∀ s : State, P s → P s.hardReset) (hs : P s) : Leaves (step s) P := by
  rcases hev : s.events with _ | ⟨e, rest⟩
  · rw [step_of_no_event hev]
    exact leaves_next hs
  rw [step_of_event hev]
  cases e with
  | read w a =>
    have answered (response : Option BusResponse) :
        P { s with events := rest, response := response } := hbus s rest response s.cmdArg s.cmd hs
    dsimp only [State.perform, State.busRead]
    split_ifs
    · exact fun _ h => nomatch h
    · exact leaves_next (answered _)
    · exact leaves_next (answered _)
  | write w a v =>
    have answered (response : Option BusResponse) (arg cmd : Word) :
        P { s with events := rest, response := response, cmdArg := arg, cmd := cmd } :=
      hbus s rest response arg cmd hs
    dsimp only [State.perform, State.busWrite, State.memWrite, State.execute]
    split_ifs
    · exact fun _ h => nomatch h
    · exact leaves_next (answered _ v s.cmd)
    · have written := answered (some .writeDone) s.cmdArg v
      cases decode v with
      | error e => exact leaves_next (hfail _ e v written)
      | ok i => exact hexec i _ written
    · exact leaves_next (answered _ s.cmdArg s.cmd)
    · exact leaves_next (answered _ s.cmdArg s.cmd)
  | hardReset => exact leaves_next (hreset _ (hbus s rest s.response s.cmdArg s.cmd hs))

/-! ### What stages 1 to 4 of a frame leave -/

/-- The state apart from its units and STATUS, which are all that stages 1 to 4 write. -/
def State.apart (s : State) : State :=
  { s with status := 0, osc := State.reset.osc, ch := State.reset.ch, ip := State.reset.ip }

@[simp] theorem modifyOsc_apart (s : State) (n : Fin Config.nosc) (f : Osc → Osc) :
    (s.modifyOsc n f).apart = s.apart := rfl

@[simp] theorem modifyCh_apart (s : State) (c : Fin Config.nch) (f : Channel → Channel) :
    (s.modifyCh c f).apart = s.apart := rfl

@[simp] theorem modifyIp_apart (s : State) (k : Fin Config.nip) (f : Interp → Interp) :
    (s.modifyIp k f).apart = s.apart := rfl

@[simp] theorem noteRange_apart (s : State) (b : Bool) : (s.noteRange b).apart = s.apart := by
  rw [noteRange_eq]; rfl

@[simp] theorem noteSat_apart (s : State) (b : Bool) : (s.noteSat b).apart = s.apart := by
  rw [noteSat_eq]; rfl

@[simp] theorem fire_apart (s : State) (n : Fin Config.nosc) : (s.fire n).apart = s.apart := by
  rw [fire_eq_noteRange, noteRange_apart, modifyOsc_apart]

@[simp] theorem fireIf_apart (s : State) (mode : BitVec 2) (n : Fin Config.nosc) :
    (s.fireIf mode n).apart = s.apart := by
  rcases fireIf_cases s mode n with ⟨-, -, e⟩ | ⟨-, e⟩ <;> rw [e]
  exact fire_apart s n

@[simp] theorem drawSource_apart (s : State) (src : Word) : (s.drawSource src).apart = s.apart := by
  rcases drawSource_cases s src with e | ⟨hn, -, -, e⟩ <;> rw [e]
  exact fire_apart s _

@[simp] theorem writeDest_apart (s : State) (d a : Word) : (s.writeDest d a).apart = s.apart := by
  rcases writeDest_cases s d a with e | ⟨n, f, e, -⟩ | ⟨c, f, e, -⟩ | ⟨k, f, e, -⟩ <;> rw [e]
  · exact modifyOsc_apart s n f
  · exact modifyCh_apart s c f
  · exact modifyIp_apart s k f

@[simp] theorem applyInterp_apart (s : State) (k : Fin Config.nip) (src : Word) :
    (s.applyInterp k src).apart = s.apart := by
  have stored : (s.storeMapped k src).apart = s.apart := by
    rw [State.storeMapped, noteSat_apart, modifyIp_apart]
  rcases applyInterp_cases s k src with ⟨-, e⟩ | ⟨-, e⟩ <;> rw [e]
  · exact stored
  · rw [writeDest_apart, stored]

@[simp] theorem runInterpIf_apart (s : State) (k : Fin Config.nip) :
    (s.runInterpIf k).apart = s.apart := by
  rcases runInterpIf_cases s k with ⟨-, e⟩ | ⟨-, e⟩ <;> rw [e]
  rw [applyInterp_apart, drawSource_apart]

@[simp] theorem runChannelIf_apart (s : State) (c : Fin Config.nch) :
    (s.runChannelIf c).apart = s.apart := by
  rcases runChannelIf_cases s c with ⟨-, e⟩ | ⟨-, e⟩ <;> rw [e]
  rw [State.runChannel, noteSat_apart, modifyCh_apart]

@[simp] theorem inputsReady_apart (s : State) : s.inputsReady.apart = s.apart :=
  calc s.stageLfos.stageInterps.stageOscs.apart
    _ = s.stageLfos.stageInterps.apart := forUnits_preserves _ (fun n u => fireIf_apart u modeAudio n) _
    _ = s.stageLfos.apart := forUnits_preserves _ (fun k u => runInterpIf_apart u k) _
    _ = s.apart := forUnits_preserves _ (fun n u => fireIf_apart u modeLfoOnce n) _

@[simp] theorem stageChannels_apart (s : State) : s.stageChannels.apart = s.apart :=
  forUnits_preserves _ (fun c u => runChannelIf_apart u c) _

/-- What the output stages start from. -/
theorem stageChannels_inputsReady_apart (s : State) : s.inputsReady.stageChannels.apart = s.apart := by
  rw [stageChannels_apart, inputsReady_apart]

end Sys2Proof.Machine
end

section
/-! PROOF. The master ramp, frame by frame (R158, R160): a frame advances the ramp once and no other stage
touches it, so that the ramp's invariant, which RAMP_SET_TARGET establishes (R161), is kept by every step
(O54). -/

namespace Sys2Proof.Machine

variable {s t : State}

/-! ### The truncated step (R16, R161) -/

/-- `n` truncated steps lead from 0 toward `d` and not beyond. -/
theorem mul_truncDiv_between (d : Int) (n : Nat) :
    (0 ≤ d → 0 ≤ truncDiv d n ∧ n * truncDiv d n ≤ d) ∧
      (d ≤ 0 → truncDiv d n ≤ 0 ∧ d ≤ n * truncDiv d n) := by
  refine ⟨fun h => ⟨Int.tdiv_nonneg h n.cast_nonneg, Int.mul_tdiv_self_le h⟩, fun h => ?_⟩
  have hneg : 0 ≤ -d := Int.neg_nonneg.2 h
  have hnonneg := Int.tdiv_nonneg hneg n.cast_nonneg
  have hle : n * (-d).tdiv n ≤ -d := Int.mul_tdiv_self_le hneg
  rw [Int.neg_tdiv] at hnonneg hle
  rw [mul_neg] at hle
  exact ⟨Int.neg_nonneg.1 hnonneg, neg_le_neg_iff.1 hle⟩

/-- What `n` truncated steps leave of `d` is less than `n`. -/
theorem abs_sub_mul_truncDiv_le (d : Int) {n : Nat} (hn : 1 ≤ n) : |d - n * truncDiv d n| ≤ n - 1 := by
  have hsplit := Int.mul_tdiv_add_tmod d n
  have hmod := Int.natAbs_tmod d n
  have hlt : d.natAbs % n < n := Nat.mod_lt _ hn
  have hrest : d - n * truncDiv d n = d.tmod n := by rw [truncDiv]; omega
  rw [Int.natAbs_natCast] at hmod
  rw [hrest, Int.abs_eq_natAbs]
  omega

/-- The step of a ramp of at least 2 frames fits its register (R161). -/
theorem truncDiv_sub_range (target cur : Word) {n : Nat} (hn : 2 ≤ n) :
    -0x80000000 ≤ truncDiv (fx target - fx cur) n ∧ truncDiv (fx target - fx cur) n ≤ 0x7FFFFFFF := by
  have htarget := fx_range target
  have hcur := fx_range cur
  have htwo : (2 : Int) ≤ n := by exact_mod_cast hn
  obtain ⟨hup, hdown⟩ := mul_truncDiv_between (fx target - fx cur) n
  generalize truncDiv (fx target - fx cur) n = q at *
  rcases le_total 0 (fx target - fx cur) with h | h
  · obtain ⟨hq, hle⟩ := hup h
    have := mul_le_mul_of_nonneg_right htwo hq
    omega
  · obtain ⟨hq, hle⟩ := hdown h
    have := mul_le_mul_of_nonpos_right htwo hq
    omega

/-! ### RAMP_SET_TARGET, by RAMP_LEN (R161) -/

theorem startRamp_of_zero (target : Word) (h : s.rampLen.toNat = 0) :
    s.startRamp target = { s with rampTarget := target, rampCur := target, rampCnt := 0, rampStep := 0 } :=
  if_pos h

theorem startRamp_of_one (target : Word) (h : s.rampLen.toNat = 1) :
    s.startRamp target = { s with rampTarget := target, rampCnt := s.rampLen, rampStep := 0 } := by
  rw [State.startRamp, if_neg (by omega), if_neg (by omega)]

theorem startRamp_of_two_le (target : Word) (h : 2 ≤ s.rampLen.toNat) :
    s.startRamp target =
      { s with
        rampTarget := target
        rampCnt := s.rampLen
        rampStep := toFx (truncDiv (fx target - fx s.rampCur) s.rampLen.toNat) } := by
  rw [State.startRamp, if_neg (by omega), if_pos h]

/-! ### One frame -/

/-- The ramp's own registers: RAMP_TARGET, RAMP_CUR, RAMP_STEP and RAMP_CNT. -/
def State.ramp (s : State) : Word × Word × Word × Word := (s.rampTarget, s.rampCur, s.rampStep, s.rampCnt)

theorem ramp_ext_iff : t.ramp = s.ramp ↔ t.rampTarget = s.rampTarget ∧ t.rampCur = s.rampCur ∧
    t.rampStep = s.rampStep ∧ t.rampCnt = s.rampCnt := by
  simp only [State.ramp, Prod.mk.injEq]

theorem rampCnt_pred_toNat (h : 1 ≤ s.rampCnt.toNat) : (s.rampCnt - 1).toNat = s.rampCnt.toNat - 1 :=
  BitVec.toNat_sub_of_le (by rw [BitVec.le_def]; exact h)

/-- The wrapped sum of two FX words (R17) is their sum as words. -/
theorem toFx_fx_add_fx (a b : Word) : toFx (fx a + fx b) = a + b := by
  simp only [toFx, fx, BitVec.ofInt_add, BitVec.ofInt_toInt]

theorem advanceRamp_of_idle (h : s.rampCnt.toNat = 0) : s.advanceRamp = s := by
  rcases advanceRamp_cases s with ⟨-, e⟩ | ⟨h', -⟩ | ⟨h', -⟩
  · exact e
  all_goals omega

theorem advanceRamp_of_last (h : s.rampCnt.toNat = 1) :
    s.advanceRamp = { s with rampCnt := 0, rampCur := s.rampTarget } := by
  have hzero : s.rampCnt - 1 = 0 := BitVec.eq_of_toNat_eq (by rw [rampCnt_pred_toNat h.ge, h]; rfl)
  rcases advanceRamp_cases s with ⟨h', -⟩ | ⟨-, e⟩ | ⟨h', -⟩
  · omega
  · rw [e, hzero]
  · omega

theorem advanceRamp_of_running (h : 2 ≤ s.rampCnt.toNat) :
    s.advanceRamp = { s with rampCnt := s.rampCnt - 1, rampCur := s.rampCur + s.rampStep } := by
  rcases advanceRamp_cases s with ⟨h', -⟩ | ⟨h', -⟩ | ⟨-, e⟩
  · omega
  · omega
  · rw [e, toFx_fx_add_fx]

/-- The advance reads and writes no unit, nor STATUS. -/
theorem advanceRamp_apart (s : State) : s.advanceRamp.apart = s.apart.advanceRamp := by
  simp only [State.advanceRamp, apply_ite State.apart]
  rfl

@[simp] theorem stageOutput_ramp (s : State) (i : Nat) : (s.stageOutput i).ramp = s.advanceRamp.ramp := by
  rw [ramp_ext_iff, stageOutput_eq_emitSides, State.emitSides, State.emitFrame]
  simp only [writeFrame_rampTarget, writeFrame_rampCur, writeFrame_rampStep, writeFrame_rampCnt,
    noteSat_rampTarget, noteSat_rampCur, noteSat_rampStep, noteSat_rampCnt, and_self]

/-- A frame advances the ramp once (R158, R169). -/
theorem renderFrame_ramp (s : State) (i : Nat) : (s.renderFrame i).ramp = s.advanceRamp.ramp := by
  have hmixed : s.inputsReady.stageChannels.advanceRamp.apart = s.advanceRamp.apart := by
    rw [advanceRamp_apart, stageChannels_inputsReady_apart, ← advanceRamp_apart]
  rw [renderFrame_eq, stageOutput_ramp]
  exact (congrArg State.ramp hmixed :)

/-! ### The ramp's invariant (R158) -/

theorem rampInv_of_idle (h : s.rampCnt.toNat = 0) : RampInv s := fun hpos => absurd h hpos.ne'

theorem rampInv_congr (h : t.ramp = s.ramp) (hs : RampInv s) : RampInv t := by
  obtain ⟨htarget, hcur, hstep, hcnt⟩ := ramp_ext_iff.1 h
  rw [RampInv, htarget, hcur, hstep, hcnt]
  exact hs

/-- While a frame still adds RAMP_STEP, the sum lies between RAMP_CUR and RAMP_TARGET, so in FX range. -/
theorem fx_rampCur_add_rampStep (h : RampInv s) (hcnt : 2 ≤ s.rampCnt.toNat) :
    fx (s.rampCur + s.rampStep) = fx s.rampCur + fx s.rampStep := by
  have hcur := fx_range s.rampCur
  have htarget := fx_range s.rampTarget
  have hone : (1 : Int) ≤ (s.rampCnt.toNat : Int) - 1 := by omega
  rw [← toFx_fx_add_fx]
  refine fx_toFx ?_
  rcases h (by omega) with ⟨hstep, hle⟩ | ⟨hstep, hle⟩
  · have := mul_le_mul_of_nonneg_right hone hstep
    omega
  · have := mul_le_mul_of_nonpos_right hone hstep
    omega

/-- The advance takes one step of those that the invariant counts. -/
theorem advanceRamp_rampInv (h : RampInv s) : RampInv s.advanceRamp := by
  obtain hcnt | hcnt | hcnt : s.rampCnt.toNat = 0 ∨ s.rampCnt.toNat = 1 ∨ 2 ≤ s.rampCnt.toNat := by omega
  · rw [advanceRamp_of_idle hcnt]
    exact h
  · rw [advanceRamp_of_last hcnt]
    exact rampInv_of_idle rfl
  · have hpred : (((s.rampCnt - 1).toNat : Nat) : Int) = s.rampCnt.toNat - 1 := by
      rw [rampCnt_pred_toNat (by omega)]; omega
    have hsum : fx s.rampCur + fx s.rampStep + ((s.rampCnt.toNat : Int) - 1 - 1) * fx s.rampStep =
        fx s.rampCur + ((s.rampCnt.toNat : Int) - 1) * fx s.rampStep := by ring
    rw [advanceRamp_of_running hcnt]
    intro _
    dsimp only
    rw [hpred, fx_rampCur_add_rampStep h hcnt, hsum]
    exact h (by omega)

theorem renderFrame_rampInv (h : RampInv s) (i : Nat) : RampInv (s.renderFrame i) :=
  rampInv_congr (renderFrame_ramp s i) (advanceRamp_rampInv h)

theorem renderBlock_rampInv (h : RampInv s) (n : Nat) : RampInv (s.renderBlock n) :=
  renderFrom_keeps s RampInv (fun _ i hu => renderFrame_rampInv hu i) 0 n h

/-- A new ramp does not pass its target: RAMP_LEN truncated steps do not (R161). -/
theorem startRamp_rampInv (s : State) (target : Word) : RampInv (s.startRamp target) := by
  obtain hlen | hlen | hlen : s.rampLen.toNat = 0 ∨ s.rampLen.toNat = 1 ∨ 2 ≤ s.rampLen.toNat := by omega
  · rw [startRamp_of_zero target hlen]
    exact rampInv_of_idle rfl
  · rw [startRamp_of_one target hlen]
    intro _
    have hzero : fx 0 = 0 := rfl
    dsimp only
    rw [hzero, mul_zero, add_zero]
    exact (le_total _ _).imp (⟨le_rfl, ·⟩) (⟨le_rfl, ·⟩)
  · rw [startRamp_of_two_le target hlen]
    intro _
    dsimp only
    rw [fx_toFx (truncDiv_sub_range _ _ hlen), sub_one_mul]
    obtain ⟨hup, hdown⟩ := mul_truncDiv_between (fx target - fx s.rampCur) s.rampLen.toNat
    refine (le_total 0 (fx target - fx s.rampCur)).imp (fun h => ?_) (fun h => ?_)
    · obtain ⟨hq, hle⟩ := hup h
      exact ⟨hq, by omega⟩
    · obtain ⟨hq, hle⟩ := hdown h
      exact ⟨hq, by omega⟩

/-- Beside RENDER and RAMP_SET_TARGET a command leaves the ramp as it is or ends it. -/
theorem effect_rampInv {i : Instr} (h : Effect s i t) (hs : RampInv s) (hrender : i ≠ .render)
    (htarget : i ≠ .rampSetTarget) : RampInv t := by
  cases h with
  | render => exact absurd rfl hrender
  | rampSetTarget => exact absurd rfl htarget
  | reset | rampSetValue => exact rampInv_of_idle rfl
  | _ => exact hs

theorem cmdError_rampInv (hs : RampInv s) (e : CmdErr) (h : Word) : RampInv (s.cmdError e h) := by
  refine rampInv_congr (ramp_ext_iff.2 ?_) hs
  simp only [cmdError_rampTarget, cmdError_rampCur, cmdError_rampStep, cmdError_rampCnt, and_self]

theorem exec_rampInv (i : Instr) (hs : RampInv s) : Leaves (exec i s) RampInv := by
  by_cases hrender : i = .render
  · subst hrender
    exact withArg_leaves (renderBlock_rampInv hs _) fun e => cmdError_rampInv hs e _
  by_cases htarget : i = .rampSetTarget
  · subst htarget
    exact leaves_next (startRamp_rampInv s _)
  exact fun t ht => effect_rampInv (exec_effect i s t ht) hs hrender htarget

end Sys2Proof.Machine

open Sys2Proof Sys2Proof.Machine

/-- Settles O54: every command keeps the ramp's invariant, RENDER by the advance of each of its frames, and
the bus alone does not touch the ramp. -/
theorem stepKeepsRampWithinTarget : Obligations.StepKeepsRampWithinTarget := fun _ t hs ht =>
  step_keeps (fun i _ hs => exec_rampInv i hs) (fun _ e h hs => cmdError_rampInv hs e h)
    (fun _ _ _ _ _ hs => hs) (fun _ _ => rampInv_of_idle rfl) hs t ht
end

section
/-! PROOF. The ramp commands (R161 to R163; O26, O27): what each writes and that it writes nothing else; and
the ramp over a block of frames (R160; O28). -/

namespace Sys2Proof.Machine

variable {s t : State}

/-! ### The frame of a change of the ramp's registers -/

/-- Of what a change lists, an offset that keeps its old word need not be listed. -/
theorem changesOnly_of_kept {ws vs : List (Nat × Word)} (h : ChangesOnly s t ws) (hsub : ∀ p ∈ vs, p ∈ ws)
    (hkept : ∀ p ∈ ws, p ∈ vs ∨ s.readWord p.1 = p.2) : ChangesOnly s t vs := by
  obtain ⟨written, others, -, around⟩ := h
  refine changesOnly_of_words (fun p hp => written p (hsub p hp)) (fun a ha hvs => ?_) around
  by_cases hlisted : ∃ p ∈ ws, p.1 = a
  · obtain ⟨p, hp, rfl⟩ := hlisted
    rcases hkept p hp with hv | hold
    · exact absurd rfl (hvs p hv)
    · rw [written p hp, hold]
  · exact others a ha fun p hp e => hlisted ⟨p, hp, e⟩

theorem changesOnly_rampRegisters (s : State) (target time len cur step cnt : Word) :
    ChangesOnly s
      { s with
        rampTarget := target, rampTime := time, rampLen := len, rampCur := cur, rampStep := step
        rampCnt := cnt }
      [(0x030, target), (0x034, time), (0x038, len), (0x03C, cur), (0x040, step), (0x044, cnt)] := by
  refine changesOnly_globals rfl rfl rfl rfl ⟨rfl, rfl, rfl⟩ ?written fun a _ hother => ?others
  case written => simp [State.readGlobal]
  case others =>
    simp only [List.forall_mem_cons, ne_eq] at hother
    obtain ⟨h30, h34, h38, h3C, h40, h44, -⟩ := hother
    unfold State.readGlobal
    split
    case h_13 | h_14 | h_15 | h_16 | h_17 | h_18 => contradiction
    all_goals rfl

/-- The registers of the ramp, as they read. -/
theorem readWord_ramp (s : State) :
    s.readWord 0x030 = s.rampTarget ∧ s.readWord 0x034 = s.rampTime ∧ s.readWord 0x038 = s.rampLen ∧
      s.readWord 0x03C = s.rampCur ∧ s.readWord 0x040 = s.rampStep ∧ s.readWord 0x044 = s.rampCnt :=
  ⟨rfl, rfl, rfl, rfl, rfl, rfl⟩

/-! ### The ramp over a block of frames -/

theorem renderBlock_succ (s : State) (n : Nat) : s.renderBlock (n + 1) = (s.renderBlock n).renderFrame n := by
  rw [State.renderBlock, renderFrom_add, Nat.zero_add]; rfl

theorem renderBlock_succ_ramp (s : State) (n : Nat) :
    (s.renderBlock (n + 1)).ramp = (s.renderBlock n).advanceRamp.ramp := by
  rw [renderBlock_succ, renderFrame_ramp]

/-- From `s` to `t` the ramp has added `n` steps. -/
structure RampedBy (s : State) (n : Nat) (t : State) : Prop where
  target : t.rampTarget = s.rampTarget
  step : t.rampStep = s.rampStep
  cnt : t.rampCnt.toNat = s.rampCnt.toNat - n
  cur : fx t.rampCur = fx s.rampCur + n * fx s.rampStep

/-- Before its last frame a ramp is linear. -/
theorem renderBlock_rampedBy (h : RampInv s) {n : Nat} (hn : n < s.rampCnt.toNat) :
    RampedBy s n (s.renderBlock n) := by
  induction n with
  | zero => exact ⟨rfl, rfl, rfl, by simp [State.renderBlock, State.renderFrom]⟩
  | succ n ih =>
    have before := ih (by omega)
    have hrunning : 2 ≤ (s.renderBlock n).rampCnt.toNat := by rw [before.cnt]; omega
    have hframe := renderBlock_succ_ramp s n
    rw [advanceRamp_of_running hrunning] at hframe
    obtain ⟨htarget, hcur, hstep, hcnt⟩ := ramp_ext_iff.1 hframe
    refine ⟨htarget.trans before.target, hstep.trans before.step, ?_, ?_⟩
    · rw [hcnt, rampCnt_pred_toNat (by omega), before.cnt]; omega
    · rw [hcur, fx_rampCur_add_rampStep (renderBlock_rampInv h n) hrunning, before.cur, before.step]
      push_cast; ring

/-- In its last frame a ramp reaches its target, and then holds it. -/
theorem renderBlock_reaches_target (h : RampInv s) (hpos : 1 ≤ s.rampCnt.toNat) {n : Nat}
    (hn : s.rampCnt.toNat ≤ n) :
    (s.renderBlock n).rampCnt.toNat = 0 ∧ (s.renderBlock n).rampCur = s.rampTarget := by
  induction n, hn using Nat.le_induction with
  | base =>
    obtain ⟨m, hm⟩ := Nat.exists_eq_succ_of_ne_zero (Nat.one_le_iff_ne_zero.1 hpos)
    have before := renderBlock_rampedBy h (n := m) (by omega)
    have hlast : (s.renderBlock m).rampCnt.toNat = 1 := by rw [before.cnt]; omega
    have hframe := renderBlock_succ_ramp s m
    rw [advanceRamp_of_last hlast] at hframe
    obtain ⟨-, hcur, -, hcnt⟩ := ramp_ext_iff.1 hframe
    rw [hm, hcnt, hcur]
    exact ⟨rfl, before.target⟩
  | succ n hn ih =>
    obtain ⟨hidle, htarget⟩ := ih
    have hframe := renderBlock_succ_ramp s n
    rw [advanceRamp_of_idle hidle] at hframe
    obtain ⟨-, hcur, -, hcnt⟩ := ramp_ext_iff.1 hframe
    exact ⟨by rw [hcnt, hidle], by rw [hcur, htarget]⟩

/-! ### The commands' next states -/

theorem exec_rampSetTarget (s : State) : exec .rampSetTarget s = .next (s.startRamp s.cmdArg) := rfl

theorem exec_rampSetTime (s : State) : exec .rampSetTime s = .next (s.writeRampTime s.cmdArg) := rfl

theorem exec_rampSetValue (s : State) : exec .rampSetValue s = .next (s.writeRampValue s.cmdArg) := rfl

/-- A ramp that RAMP_SET_TARGET starts: RAMP_LEN frames from RAMP_CUR to the target (R161). -/
theorem startRamp_of_pos (target : Word) (h : 1 ≤ s.rampLen.toNat) :
    (s.startRamp target).rampTarget = target ∧ (s.startRamp target).rampCur = s.rampCur ∧
      (s.startRamp target).rampCnt = s.rampLen := by
  rw [State.startRamp, if_neg (by omega)]
  exact ⟨rfl, rfl, rfl⟩

theorem fx_startRamp_rampStep (target : Word) (h : 2 ≤ s.rampLen.toNat) :
    fx (s.startRamp target).rampStep = truncDiv (fx target - fx s.rampCur) s.rampLen.toNat := by
  rw [startRamp_of_two_le target h]
  exact fx_toFx (truncDiv_sub_range _ _ h)

end Sys2Proof.Machine

open Sys2Proof Sys2Proof.Machine

/-- Settles O26, by RAMP_LEN: the ramp's registers that a case does not list keep their words. -/
theorem rampSetTargetEffect : Obligations.RampSetTargetEffect := by
  intro s
  refine ⟨_, exec_rampSetTarget s, fun h => ?jump, fun h => ?oneFrame, fun h => ⟨?ramp, ?step⟩⟩
  case jump =>
    rw [startRamp_of_zero s.cmdArg h]
    exact changesOnly_of_kept
      (changesOnly_rampRegisters s s.cmdArg s.rampTime s.rampLen s.cmdArg 0 0) (by simp)
      (by simp [readWord_ramp])
  case oneFrame =>
    rw [startRamp_of_one s.cmdArg h]
    exact changesOnly_of_kept
      (changesOnly_rampRegisters s s.cmdArg s.rampTime s.rampLen s.rampCur 0 s.rampLen) (by simp)
      (by simp [readWord_ramp])
  case ramp =>
    rw [startRamp_of_two_le s.cmdArg h]
    exact changesOnly_of_kept
      (changesOnly_rampRegisters s s.cmdArg s.rampTime s.rampLen s.rampCur _ s.rampLen) (by simp)
      (by simp [readWord_ramp])
  case step => exact fx_startRamp_rampStep s.cmdArg h

/-- Settles O27: each is a change of its own among the ramp's registers. -/
theorem rampTimeAndValueEffect : Obligations.RampTimeAndValueEffect := by
  intro s
  refine ⟨⟨_, exec_rampSetTime s, ?time⟩, ⟨_, exec_rampSetValue s, ?value⟩⟩
  case time =>
    exact changesOnly_of_kept
      (changesOnly_rampRegisters s s.rampTarget s.cmdArg (rampLength s.cmdArg s.sampleRate) s.rampCur
        s.rampStep s.rampCnt)
      (by simp [rampLength, floorDiv]) (by simp [readWord_ramp, rampLength, floorDiv])
  case value =>
    exact changesOnly_of_kept
      (changesOnly_rampRegisters s s.cmdArg s.rampTime s.rampLen s.cmdArg 0 0) (by simp)
      (by simp [readWord_ramp])

/-- Settles O28: the ramp that RAMP_SET_TARGET starts has the invariant, so its frames before the last add
exact steps. -/
theorem rampIsLinearAndReachesTarget : Obligations.RampIsLinearAndReachesTarget := by
  intro s hlen
  obtain ⟨htarget, hcur, hcnt⟩ := startRamp_of_pos s.cmdArg hlen
  have hinv := startRamp_rampInv s s.cmdArg
  refine ⟨_, exec_rampSetTarget s, fun j h1 hj => ?linear, fun j hj => ?reached,
    ?rest⟩
  case linear =>
    have ramped := renderBlock_rampedBy hinv (n := j) (by rw [hcnt]; omega)
    have hstep := fx_startRamp_rampStep s.cmdArg (by omega : 2 ≤ s.rampLen.toNat)
    exact ramped.cur.trans (by rw [hcur, hstep]; rfl)
  case reached =>
    obtain ⟨-, hreached⟩ := renderBlock_reaches_target hinv (by rw [hcnt]; exact hlen)
      (n := j) (by rw [hcnt]; exact hj)
    exact hreached.trans htarget
  case rest =>
    rw [← sub_sub]
    exact abs_sub_mul_truncDiv_le _ hlen
end

section
/-! PROOF. Stages 5 and 6 of a frame: the mix, the master gain and the sample pair (R155, R158, R159, R169,
R170; O48), and the pan law (R154; O50). -/

namespace Sys2Proof.Machine

/-! ### The pan law (R154) -/

theorem panPosition_eq (c : Channel) : c.panPosition = max (-0x1000000) (min 0x1000000 (fx c.pan)) := rfl

theorem panLeft_of_disabled {c : Channel} (h : c.panEn = false) : c.panLeft = 0x1000000 := by
  rw [Channel.panLeft, h]; rfl

theorem panRight_of_disabled {c : Channel} (h : c.panEn = false) : c.panRight = 0x1000000 := by
  rw [Channel.panRight, h]; rfl

theorem panLeft_of_enabled {c : Channel} (h : c.panEn = true) :
    c.panLeft = (0x1000000 - c.panPosition) / 2 := if_pos h

theorem panRight_of_enabled {c : Channel} (h : c.panEn = true) :
    c.panRight = (0x1000000 + c.panPosition) / 2 := if_pos h

/-! ### The output stages (R155, R159, R169, R170) -/

/-- A side's sample: its mix, saturated, times the master gain that stands in RAMP_CUR (R155, R159). -/
def State.sideSample (s : State) (gain : Channel → Int) : Int :=
  sat32 (sat32 (s.mixRaw gain) * fx s.rampCur / 2 ^ 24)

theorem sideSample_eq_sum (s : State) (gain : Channel → Int) :
    s.sideSample gain =
      sat32 (sat32 ((∑ c : Fin 16, if s.ch[c].en then fx s.ch[c].out * gain s.ch[c] else 0) / 2 ^ 24) *
        fx s.rampCur / 2 ^ 24) := by
  rw [State.sideSample, State.mixRaw, asr_twentyFour, mixSum_eq_sum]

/-- The output stages write no channel, so the state they leave mixes to the same. -/
theorem stageOutput_sideSample (s : State) (i : Nat) (gain : Channel → Int) :
    (s.stageOutput i).sideSample gain =
      sat32 (sat32 (s.mixRaw gain) * fx s.advanceRamp.rampCur / 2 ^ 24) := by
  simp only [State.sideSample, State.mixRaw, State.mixSum, stageOutput_ch, stageOutput_rampCur]

/-- Both samples are the mix times RAMP_CUR, as the frame leaves it. -/
theorem stageOutput_samples (s : State) (i : Nat) :
    fx (s.stageOutput i).lastL = (s.stageOutput i).sideSample Channel.panLeft ∧
      fx (s.stageOutput i).lastR = (s.stageOutput i).sideSample Channel.panRight := by
  rw [stageOutput_sideSample, stageOutput_sideSample]
  exact ⟨fx_toFx_sat32 _, fx_toFx_sat32 _⟩

/-- The pair stands at the frame's entry of OUTBUF. -/
theorem stageOutput_readWord_entry (s : State) {i : Nat} (hi : i < Config.outbufCap) :
    (s.stageOutput i).readWord (outbufOffset i) = (s.stageOutput i).lastL ∧
      (s.stageOutput i).readWord (outbufOffset i + 4) = (s.stageOutput i).lastR := by
  have hentry : 0x8000 ≤ outbufOffset i ∧ outbufOffset i + 8 ≤ 0xA000 := by
    simp only [outbufOffset, Config.outbufCap] at hi ⊢; omega
  rw [readWord_outbuf _ (by omega) (by omega), readWord_outbuf _ (by omega) (by omega)]
  exact ⟨writeFrame_outbufWord_left _ hi _ _, writeFrame_outbufWord_right _ hi _ _⟩

@[simp] theorem advanceRamp_frameCount (s : State) : s.advanceRamp.frameCount = s.frameCount := by
  rcases advanceRamp_cases s with ⟨-, e⟩ | ⟨-, e⟩ | ⟨-, e⟩ <;> rw [e]

theorem stageOutput_frameCount (s : State) (i : Nat) : (s.stageOutput i).frameCount = s.frameCount + 1 := by
  rw [stageOutput_eq_emitSides, State.emitSides, State.emitFrame, noteSat_frameCount,
    advanceRamp_frameCount]

theorem renderFrame_frameCount (s : State) (i : Nat) : (s.renderFrame i).frameCount = s.frameCount + 1 := by
  have hcount : s.inputsReady.stageChannels.frameCount = s.frameCount :=
    (congrArg State.frameCount (stageChannels_inputsReady_apart s) :)
  rw [renderFrame_eq, stageOutput_frameCount, hcount]

end Sys2Proof.Machine

open Sys2Proof Sys2Proof.Machine

/-- Settles O50: with the two gains as halves of 1 - p and 1 + p, the rest is arithmetic on p. -/
theorem panLawGains : Obligations.PanLawGains := by
  intro c p hp
  refine ⟨fun h => ⟨panLeft_of_disabled h, panRight_of_disabled h⟩, fun h => ?enabled⟩
  case enabled =>
    rw [panLeft_of_enabled h, panRight_of_enabled h, panPosition_eq, ← hp]
    exact ⟨rfl, rfl, fun heven => by omega, fun hodd => by omega, fun hcentre => by omega,
      fun hleft => by omega, fun hright => by omega⟩

/-- Settles O48: the samples are read off the output stages, the ramp off its one advance by the frame. -/
theorem frameMixesAndAppliesRamp : Obligations.FrameMixesAndAppliesRamp := by
  intro s harg hmax
  obtain ⟨hleft, hright⟩ := stageOutput_samples s.inputsReady.stageChannels 0
  obtain ⟨hentryL, hentryR⟩ := stageOutput_readWord_entry s.inputsReady.stageChannels (i := 0) (by decide)
  rw [← renderFrame_eq, sideSample_eq_sum] at hleft hright
  have hramp := renderFrame_ramp s 0
  refine ⟨s.renderFrame 0, exec_render_one hmax harg, hleft, hright, fun h => ?idle, fun h => ?last,
    fun h => ?running, hentryL, hentryR, renderFrame_frameCount s 0⟩
  case idle =>
    rw [advanceRamp_of_idle h] at hramp
    obtain ⟨-, hcur, -, hcnt⟩ := ramp_ext_iff.1 hramp
    exact ⟨hcnt.trans (BitVec.eq_of_toNat_eq h), hcur⟩
  case last =>
    rw [advanceRamp_of_last h] at hramp
    obtain ⟨-, hcur, -, hcnt⟩ := ramp_ext_iff.1 hramp
    exact ⟨hcnt, hcur⟩
  case running =>
    rw [advanceRamp_of_running h] at hramp
    obtain ⟨-, hcur, -, hcnt⟩ := ramp_ext_iff.1 hramp
    exact ⟨hcnt, hcur⟩
end

section
/-! PROOF. The global commands but RENDER (R172 to R177): NOP (O20), SET_SAMPLE_RATE (O21), SET_MAX_BLOCK
(O22), RESET (O18) and CLEAR_STATUS (O23), each with its next state and its frame. -/

namespace Sys2Proof.Machine

variable (s : State)

/-! ### The commands' next states -/

theorem exec_setSampleRate (ha : s.cmdArg.toNat ≠ 0) :
    exec .setSampleRate s = .next (s.writeSampleRate s.cmdArg) := by
  have hlegal : sampleRateLegal s.cmdArg = true := decide_eq_true ha
  rw [exec, execSetSampleRate, withArg_legal hlegal]

theorem exec_setMaxBlock (hlo : 1 ≤ s.cmdArg.toNat) (hhi : s.cmdArg.toNat ≤ 1024) :
    exec .setMaxBlock s = .next { s with maxBlock := s.cmdArg } := by
  have hlegal : maxBlockLegal s.cmdArg = true :=
    Bool.and_eq_true_iff.2 ⟨decide_eq_true hlo, decide_eq_true hhi⟩
  rw [exec, execSetMaxBlock, withArg_legal hlegal]

theorem exec_clearStatus (ha : s.cmdArg &&& 0xFFFFFCFE = 0) :
    exec .clearStatus s = .next (s.clearStatus s.cmdArg) := by
  rw [exec, execClearStatus, withArg_legal ((clearStatusLegal_iff _).2 ha)]

/-! ### SET_MAX_BLOCK (R174) -/

theorem changesOnly_maxBlock (frames : Word) :
    ChangesOnly s { s with maxBlock := frames } [(0x028, frames)] := by
  refine changesOnly_globals rfl rfl rfl rfl ⟨rfl, rfl, rfl⟩ ?written fun a _ hother => ?others
  case written => simp [State.readGlobal]
  case others =>
    simp only [List.forall_mem_cons, ne_eq] at hother
    obtain ⟨h28, -⟩ := hother
    unfold State.readGlobal
    split
    case h_11 => contradiction
    all_goals rfl

/-! ### CLEAR_STATUS (R177) -/

/-- A field set to 0: the word without the field's bits (R19). -/
theorem setBits_zero (w : Word) (lo len : Nat) :
    setBits w lo (0 : BitVec len) = w &&& ~~~((BitVec.allOnes len).setWidth 32 <<< lo) := by
  simp [setBits]

/-- CLEAR_STATUS in full: the bits of STATUS that the mask names, and the error record with bit 0. -/
theorem clearStatus_eq (mask : Word) :
    s.clearStatus mask =
      { s with
        status := s.status &&& ~~~((if mask.getLsbD 0 then 0xF1 else 0) |||
          (if mask.getLsbD 8 then 0x100 else 0) ||| (if mask.getLsbD 9 then 0x200 else 0))
        errInfo := if mask.getLsbD 0 then 0 else s.errInfo
        errArg := if mask.getLsbD 0 then 0 else s.errArg } := by
  have herr (w : Word) : setBits (setBits w 0 (bit false)) 4 (0 : BitVec 4) = w &&& ~~~0xF1 := by
    rw [setBits_zero, bit, BitVec.ofBool_false, setBits_zero, BitVec.and_assoc]; rfl
  have hrange (w : Word) : setBits w 8 (bit false) = w &&& ~~~0x100 := setBits_zero w 8 1
  have hsat (w : Word) : setBits w 9 (bit false) = w &&& ~~~0x200 := setBits_zero w 9 1
  have hnone (w : Word) : w &&& 0xFFFFFFFF#32 = w := BitVec.and_allOnes
  simp only [State.clearStatus, herr, hrange, hsat, BitVec.not_or]
  split_ifs <;> simp [BitVec.and_assoc, hnone]

theorem changesOnly_errorRecord (status info arg : Word) :
    ChangesOnly s { s with status := status, errInfo := info, errArg := arg }
      [(0x010, status), (0x014, info), (0x018, arg)] := by
  refine changesOnly_globals rfl rfl rfl rfl ⟨rfl, rfl, rfl⟩ ?written fun a _ hother => ?others
  case written => simp [State.readGlobal]
  case others =>
    simp only [List.forall_mem_cons, ne_eq] at hother
    obtain ⟨h10, h14, h18, -⟩ := hother
    unfold State.readGlobal
    split
    case h_5 | h_6 | h_7 => contradiction
    all_goals rfl

/-! ### RESET (R176, R196) -/

/-- Of the registers RESET leaves CMD alone as it was. -/
theorem resetCommand_readWord {a : Nat} (ha : a < 0x8000) (hcmd : a ≠ 0x020) :
    s.resetCommand.readWord a = State.reset.readWord a := by
  rcases readWord_cases a with h | ⟨n, k, h, rfl⟩ | ⟨c, k, h, rfl⟩ | ⟨i, k, h, rfl⟩ | h | h
  · rw [readWord_global _ h, readWord_global _ h]
    unfold State.readGlobal
    split
    case h_9 => contradiction
    all_goals rfl
  · rw [readWord_osc _ n h, readWord_osc _ n h]; rfl
  · rw [readWord_ch _ c h, readWord_ch _ c h]; rfl
  · rw [readWord_ip _ i h, readWord_ip _ i h]; rfl
  · omega
  · rw [h, h]

theorem resetCommand_outbufKept : OutbufKept s s.resetCommand := ⟨rfl, rfl⟩

/-! ### SET_SAMPLE_RATE (R100, R173) -/

/-- An oscillator with its increment recomputed at a rate (R100). -/
def Osc.tuned (o : Osc) (rate : Word) : Osc := { o with pinc := mod32 (pincQuotient o.freq rate) }

/-- The frequency is too high for the rate: the quotient of R100 leaves one cycle. -/
def Osc.tooHigh (o : Osc) (rate : Word) : Bool := outOfRange32 (pincQuotient o.freq rate)

theorem recompute_eq_noteRange (n : Fin Config.nosc) :
    s.recompute n = (s.modifyOsc n fun o => o.tuned s.sampleRate).noteRange (s.osc[n].tooHigh s.sampleRate) := by
  simp only [State.recompute, State.modifyOsc, Osc.tuned, Osc.tooHigh]

theorem readWord_status : s.readWord 0x010 = s.status := rfl

theorem readWord_sampleRate : s.readWord 0x024 = s.sampleRate := rfl

theorem readWord_rampLen : s.readWord 0x038 = s.rampLen := rfl

/-- Where each turn sets a flag of the word at offset `a` on a condition that no turn changes, the loop sets
it where some unit's condition holds. -/
theorem forUnits_readWord_flagged {n : Nat} {f : Fin n → State → State} {a : Nat} {mask : Word}
    (p : Fin n → State → Bool) (hf : ∀ u s, (f u s).readWord a = flagged (s.readWord a) mask (p u s))
    (hp : ∀ u v s, p u (f v s) = p u s) (s : State) :
    (forUnits n f s).readWord a = flagged (s.readWord a) mask (decide (∃ u, p u s = true)) := by
  have on_list : ∀ (us : List (Fin n)) (s : State),
      (us.foldl (fun s u => f u s) s).readWord a = flagged (s.readWord a) mask (us.any fun u => p u s) := by
    intro us
    induction us with
    | nil => exact fun _ => rfl
    | cons u us ih =>
      intro s
      simp only [List.foldl_cons, ih, hf, hp, flagged_flagged, List.any_cons]
  rw [forUnits, on_list]
  congr 1
  rw [Bool.eq_iff_iff, List.any_eq_true, decide_eq_true_iff]
  simp

theorem recompute_sampleRate (n : Fin Config.nosc) : (s.recompute n).sampleRate = s.sampleRate := by
  rw [recompute_eq]

/-- What the recomputation of oscillator `n` reads: the unit and the rate. -/
def State.tuning (s : State) (n : Fin Config.nosc) : Osc × Word := (s.osc[n], s.sampleRate)

/-- The condition on which the recomputation of oscillator `n` sets STATUS.RANGE. -/
def State.tooHigh (s : State) (n : Fin Config.nosc) : Bool := s.osc[n].tooHigh s.sampleRate

theorem recompute_tuning_same (n : Fin Config.nosc) :
    (s.recompute n).tuning n = (s.osc[n].tuned s.sampleRate, s.sampleRate) := by
  rw [State.tuning, recompute_sampleRate, recompute_eq_noteRange, noteRange_osc, modifyOsc_osc_same]

theorem recompute_tuning_other {n m : Fin Config.nosc} (h : m ≠ n) :
    (s.recompute m).tuning n = s.tuning n := by
  rw [State.tuning, recompute_sampleRate, recompute_eq_noteRange, noteRange_osc,
    modifyOsc_osc_other s _ (Ne.symm h), State.tuning]

theorem recompute_readStatus (n : Fin Config.nosc) :
    (s.recompute n).readWord 0x010 = flagged (s.readWord 0x010) 0x100 (s.tooHigh n) := by
  rw [readWord_status, readWord_status, recompute_eq_noteRange, noteRange_flagged, modifyOsc_status,
    State.tooHigh]

theorem recompute_tooHigh (n m : Fin Config.nosc) : (s.recompute m).tooHigh n = s.tooHigh n := by
  rw [State.tooHigh, Osc.tooHigh, recompute_freq, recompute_sampleRate, State.tooHigh, Osc.tooHigh]

/-- Every PINC at the state's rate (R173). -/
theorem forUnits_recompute_tuning (n : Fin Config.nosc) :
    (forUnits Config.nosc (fun m s => s.recompute m) s).tuning n =
      (s.osc[n].tuned s.sampleRate, s.sampleRate) :=
  forUnits_once (·.tuning n) n (fun _ t hm => recompute_tuning_other t hm)
    (fun p => (p.1.tuned p.2, p.2)) (fun t => recompute_tuning_same t n) s

/-- STATUS.RANGE after every recomputation (R100, R173). -/
theorem forUnits_recompute_readStatus :
    (forUnits Config.nosc (fun m s => s.recompute m) s).readWord 0x010 =
      flagged (s.readWord 0x010) 0x100 (decide (∃ n, s.tooHigh n = true)) :=
  forUnits_readWord_flagged (fun n t => t.tooHigh n) (fun n t => recompute_readStatus t n)
    (fun n m t => recompute_tooHigh t n m) s

theorem writeSampleRate_eq (rate : Word) :
    s.writeSampleRate rate =
      { forUnits Config.nosc (fun m s => s.recompute m) { s with sampleRate := rate } with
        rampLen :=
          rampLength (forUnits Config.nosc (fun m s => s.recompute m) { s with sampleRate := rate }).rampTime
            (forUnits Config.nosc (fun m s => s.recompute m) { s with sampleRate := rate }).sampleRate } := by
  rw [State.writeSampleRate]

variable {s} {t : State}

theorem osc_of_tuning {n : Fin Config.nosc} {o : Osc} {rate : Word} (h : t.tuning n = (o, rate)) :
    t.osc[n] = o := congrArg Prod.fst h

theorem status_of_readWord_flagged {rate : Word}
    (h : t.readWord 0x010 = flagged (State.readWord { s with sampleRate := rate } 0x010) 0x100
      (decide (∃ n, State.tooHigh { s with sampleRate := rate } n = true))) :
    t.status =
      flagged s.status 0x100 (decide (∃ n : Fin Config.nosc, s.osc[n].tooHigh rate = true)) := by
  have htooHigh (n : Fin Config.nosc) :
      State.tooHigh { s with sampleRate := rate } n = s.osc[n].tooHigh rate := rfl
  simp only [readWord_status, htooHigh] at h
  exact h

/-- The recomputations leave all but the oscillators and STATUS, and so RAMP_TIME and the rate. -/
theorem recomputed_withRampLen {rate : Word} (h : Recomputed { s with sampleRate := rate } t) :
    { t with rampLen := rampLength t.rampTime t.sampleRate } =
      { s with
        sampleRate := rate, rampLen := rampLength s.rampTime rate, osc := t.osc, status := t.status } := by
  rw [recomputed_eq h]

variable (s)

/-- SET_SAMPLE_RATE in full: the rate, every PINC, RAMP_LEN and STATUS.RANGE (R173). -/
theorem exists_writeSampleRate_eq (rate : Word) :
    ∃ osc : Vector Osc Config.nosc, (∀ n : Fin Config.nosc, osc[n] = s.osc[n].tuned rate) ∧
      s.writeSampleRate rate =
        { s with
          sampleRate := rate
          rampLen := rampLength s.rampTime rate
          osc := osc
          status :=
            flagged s.status 0x100 (decide (∃ n : Fin Config.nosc, s.osc[n].tooHigh rate = true)) } := by
  have hstatus := status_of_readWord_flagged (forUnits_recompute_readStatus { s with sampleRate := rate })
  refine ⟨_, fun n => osc_of_tuning (forUnits_recompute_tuning { s with sampleRate := rate } n), ?_⟩
  rw [writeSampleRate_eq, recomputed_withRampLen (recomputed_all _), hstatus]

/-- A change of the rate, RAMP_LEN, STATUS and every PINC. -/
theorem changesOnly_rate {rate len status : Word} {osc : Vector Osc Config.nosc} {pinc : Fin Config.nosc → Word}
    (hosc : ∀ n : Fin Config.nosc, osc[n] = { s.osc[n] with pinc := pinc n }) :
    ChangesOnly s { s with sampleRate := rate, rampLen := len, osc := osc, status := status }
      ([(0x024, rate), (0x038, len), (0x010, status)] ++
        (List.finRange Config.nosc).map fun n : Fin Config.nosc => (oscOffset n 0x04, pinc n)) := by
  refine changesOnly_of_words (fun p hp => ?written) (fun a ha hother => ?others) ⟨rfl, rfl, rfl⟩
  case written =>
    simp only [List.mem_append, List.mem_cons, List.not_mem_nil, or_false, List.mem_map, List.mem_finRange,
      true_and] at hp
    rcases hp with (rfl | rfl | rfl) | ⟨n, rfl⟩
    · exact readWord_sampleRate _
    · exact readWord_rampLen _
    · exact readWord_status _
    · rw [oscOffset, readWord_osc _ n (by decide)]
      exact congrArg Osc.pinc (hosc n)
  case others =>
    simp only [List.forall_mem_append, List.forall_mem_cons, List.forall_mem_map, List.mem_finRange,
      true_imp_iff] at hother
    obtain ⟨⟨hrate, hlen, hstatus, -⟩, hpinc⟩ := hother
    rcases readWord_cases a with h | ⟨n, k, h, rfl⟩ | ⟨c, k, h, rfl⟩ | ⟨i, k, h, rfl⟩ | h | h
    · rw [readWord_global _ h, readWord_global _ h]
      unfold State.readGlobal
      split
      case h_5 | h_10 | h_15 => contradiction
      all_goals rfl
    · have hk : k ≠ 0x04 := fun e => hpinc n (by rw [e, oscOffset])
      rw [readWord_osc _ n h, readWord_osc _ n h]
      refine (congrArg (·.read k) (hosc n)).trans ?_
      unfold Osc.read
      split
      case h_2 => contradiction
      all_goals rfl
    · rw [readWord_ch _ c h, readWord_ch _ c h]
    · rw [readWord_ip _ i h, readWord_ip _ i h]
    · rw [readWord_outbuf _ h.1 h.2, readWord_outbuf _ h.1 h.2]; rfl
    · rw [h, h]

end Sys2Proof.Machine

open Sys2Proof Sys2Proof.Machine

/-- Settles O18: RESET keeps OUTBUF and CMD, and all else reads as after a hardware reset. -/
theorem resetCommandState : Obligations.ResetCommandState := by
  intro s
  have kept := resetCommand_outbufKept s
  exact ⟨s.resetCommand, rfl, rfl, fun _ _ => resetCommand_readWord s,
    fun _ _ => outbufKept_readWord kept, fun _ => outbufKept_readByte kept, rfl, rfl, rfl⟩

/-- Settles O20. -/
theorem nopDoesNothing : Obligations.NopDoesNothing := fun _ => rfl

/-- Settles O21: the words of the machine's own formulas are those of R100, R39 and R31. -/
theorem setSampleRateEffect : Obligations.SetSampleRateEffect := by
  intro s hrate
  obtain ⟨osc, hosc, e⟩ := exists_writeSampleRate_eq s s.cmdArg
  refine ⟨_, exec_setSampleRate s hrate, ?_⟩
  simp only [Osc.tooHigh, outOfRange32_pincQuotient _ hrate, decide_eq_true_iff] at e
  rw [e]
  refine changesOnly_rate s fun n => (hosc n).trans ?_
  rw [Osc.tuned, mod32_natCast]; rfl

/-- Settles O22. -/
theorem setMaxBlockEffect : Obligations.SetMaxBlockEffect := fun s hlo hhi =>
  ⟨_, exec_setMaxBlock s hlo hhi, changesOnly_maxBlock s s.cmdArg⟩

/-- Settles O23. -/
theorem clearStatusEffect : Obligations.ClearStatusEffect := by
  intro s ha
  refine ⟨_, exec_clearStatus s ha, ?_⟩
  rw [clearStatus_eq]
  exact changesOnly_errorRecord s _ _ _
end

section
/-! PROOF. A block of frames (R164, R170, R175): what RENDER writes of OUTBUF, what it counts, and every
register that it leaves (O24). -/

namespace Sys2Proof.Machine

variable {s : State}

/-! ### OUTBUF over a block (R170) -/

theorem stageOutput_outbufByte_other (s : State) (i : Nat) {a : Nat}
    (h : a < outbufOffset i ∨ outbufOffset i + 8 ≤ a) : (s.stageOutput i).outbufByte a = s.outbufByte a := by
  refine (writeFrame_outbufByte_other _ i _ _ h).trans ?_
  simp only [State.outbufByte, noteSat_outbuf, noteSat_powerOns, advanceRamp_outbuf, advanceRamp_powerOns]

/-- A frame writes its own entry of OUTBUF alone. -/
theorem renderFrame_outbufByte_other (s : State) (i : Nat) {a : Nat}
    (h : a < outbufOffset i ∨ outbufOffset i + 8 ≤ a) : (s.renderFrame i).outbufByte a = s.outbufByte a := by
  have hapart := stageChannels_inputsReady_apart s
  have hbuf : s.inputsReady.stageChannels.outbuf = s.outbuf := (congrArg State.outbuf hapart :)
  have hon : s.inputsReady.stageChannels.powerOns = s.powerOns := (congrArg State.powerOns hapart :)
  rw [renderFrame_eq, stageOutput_outbufByte_other _ i h, State.outbufByte, hbuf, hon, State.outbufByte]

theorem renderFrom_outbufByte_other (s : State) (i n : Nat) {a : Nat}
    (h : a < outbufOffset i ∨ outbufOffset (i + n) ≤ a) :
    (s.renderFrom i n).outbufByte a = s.outbufByte a := by
  induction n generalizing s i with
  | zero => rfl
  | succ n ih =>
    simp only [outbufOffset] at h ih
    rw [State.renderFrom, ih _ _ (by omega), renderFrame_outbufByte_other]
    rw [outbufOffset]
    omega

/-- Words of OUTBUF outside a block's entries read as before it. -/
theorem renderFrom_readWord_other (s : State) (i n : Nat) {a : Nat} (hlo : 0x8000 ≤ a)
    (h : a + 4 ≤ outbufOffset i ∨ outbufOffset (i + n) ≤ a) :
    (s.renderFrom i n).readWord a = s.readWord a := by
  rcases lt_or_ge a 0xA000 with hlt | hge
  · have hbyte {k : Nat} (hk : k < 4) :
        (s.renderFrom i n).outbufByte (a + k) = s.outbufByte (a + k) :=
      renderFrom_outbufByte_other s i n (by omega)
    have hfirst : (s.renderFrom i n).outbufByte a = s.outbufByte a := hbyte (k := 0) (by decide)
    rw [readWord_outbuf _ hlo hlt, readWord_outbuf _ hlo hlt, State.outbufWord, State.outbufWord,
      hbyte (by decide), hbyte (by decide), hbyte (by decide), hfirst]
  · rw [readWord_above _ hge, readWord_above _ hge]

theorem renderFrom_succ (s : State) (i n : Nat) :
    s.renderFrom i (n + 1) = (s.renderFrom i n).renderFrame (i + n) := by
  rw [renderFrom_add]; rfl

/-- The last entry that a block writes is the frame's sample pair. -/
theorem renderFrom_readWord_last (s : State) {i n : Nat} (hcap : i + n < Config.outbufCap) :
    (s.renderFrom i (n + 1)).readWord (outbufOffset (i + n)) = (s.renderFrom i (n + 1)).lastL ∧
      (s.renderFrom i (n + 1)).readWord (outbufOffset (i + n) + 4) = (s.renderFrom i (n + 1)).lastR := by
  rw [renderFrom_succ, renderFrame_eq]
  exact stageOutput_readWord_entry _ hcap

/-- Each entry of a block holds the sample pair of the frame that wrote it. -/
theorem renderFrom_readWord_entry (s : State) {i n j : Nat} (hj : j < n) (hcap : i + n ≤ Config.outbufCap) :
    (s.renderFrom i n).readWord (outbufOffset (i + j)) = (s.renderFrom i (j + 1)).lastL ∧
      (s.renderFrom i n).readWord (outbufOffset (i + j) + 4) = (s.renderFrom i (j + 1)).lastR := by
  obtain ⟨m, rfl⟩ := Nat.exists_eq_add_of_le hj
  obtain ⟨hleft, hright⟩ := renderFrom_readWord_last s (i := i) (n := j) (by omega)
  have hkept {a : Nat} (hlo : 0x8000 ≤ a) (hhi : a + 4 ≤ outbufOffset (i + (j + 1))) :
      (s.renderFrom i (j + 1 + m)).readWord a = (s.renderFrom i (j + 1)).readWord a := by
    rw [renderFrom_add]
    exact renderFrom_readWord_other _ _ m hlo (.inl hhi)
  simp only [outbufOffset] at *
  rw [hkept (by omega) (by omega), hkept (by omega) (by omega)]
  exact ⟨hleft, hright⟩

/-! ### The count of frames (R37) -/

theorem renderBlock_frameCount (s : State) (n : Nat) :
    (s.renderBlock n).frameCount = s.frameCount + BitVec.ofNat 32 n := by
  induction n with
  | zero => exact (BitVec.add_zero _).symm
  | succ n ih =>
    rw [renderBlock_succ, renderFrame_frameCount, ih, BitVec.ofNat_add, BitVec.add_assoc]; rfl

/-! ### What no DEST can name and no stage writes -/

/-- STATUS apart from RANGE and SAT, and every TAP_SRC. -/
def State.wiring (s : State) : Word × (Fin Config.nch → Vector Word 4) :=
  (s.status &&& 0xFFFFFCFF, fun c => s.ch[c].tapSrc)

theorem flagged_and_of_disjoint (w : Word) {flag mask : Word} (h : flag &&& mask = 0) (b : Bool) :
    flagged w flag b &&& mask = w &&& mask := by
  cases b with
  | false => rfl
  | true => rw [flagged, if_pos rfl, BitVec.and_or_distrib_right, h]; exact BitVec.or_zero

@[simp] theorem modifyOsc_wiring (s : State) (n : Fin Config.nosc) (f : Osc → Osc) :
    (s.modifyOsc n f).wiring = s.wiring := rfl

@[simp] theorem modifyIp_wiring (s : State) (k : Fin Config.nip) (f : Interp → Interp) :
    (s.modifyIp k f).wiring = s.wiring := rfl

theorem modifyCh_wiring (s : State) (c : Fin Config.nch) {f : Channel → Channel}
    (hf : ∀ x, (f x).tapSrc = x.tapSrc) : (s.modifyCh c f).wiring = s.wiring := by
  rw [State.wiring, modifyCh_status, State.wiring]
  congr 1
  funext d
  exact modifyCh_ch_view s Channel.tapSrc hf c d

@[simp] theorem noteRange_wiring (s : State) (b : Bool) : (s.noteRange b).wiring = s.wiring := by
  rw [noteRange_flagged, State.wiring]
  dsimp only
  rw [flagged_and_of_disjoint _ (by decide), State.wiring]

@[simp] theorem noteSat_wiring (s : State) (b : Bool) : (s.noteSat b).wiring = s.wiring := by
  rw [noteSat_flagged, State.wiring]
  dsimp only
  rw [flagged_and_of_disjoint _ (by decide), State.wiring]

@[simp] theorem fire_wiring (s : State) (n : Fin Config.nosc) : (s.fire n).wiring = s.wiring := by
  rw [fire_eq_noteRange, noteRange_wiring, modifyOsc_wiring]

@[simp] theorem fireIf_wiring (s : State) (mode : BitVec 2) (n : Fin Config.nosc) :
    (s.fireIf mode n).wiring = s.wiring := by
  rcases fireIf_cases s mode n with ⟨-, -, e⟩ | ⟨-, e⟩ <;> rw [e]
  exact fire_wiring s n

@[simp] theorem drawSource_wiring (s : State) (src : Word) : (s.drawSource src).wiring = s.wiring := by
  rcases drawSource_cases s src with e | ⟨hn, -, -, e⟩ <;> rw [e]
  exact fire_wiring s _

@[simp] theorem writeDest_wiring (s : State) (d a : Word) : (s.writeDest d a).wiring = s.wiring := by
  rcases writeDest_cases s d a with e | ⟨n, f, e, -⟩ | ⟨c, f, e, hf⟩ | ⟨k, f, e, -⟩ <;> rw [e]
  · exact modifyOsc_wiring s n f
  · refine modifyCh_wiring s c fun x => ?_
    rcases hf with ⟨_, rfl⟩ | rfl | rfl | rfl | rfl | rfl | rfl | rfl | rfl | rfl | rfl | rfl <;> rfl
  · exact modifyIp_wiring s k f

@[simp] theorem storeMapped_wiring (s : State) (k : Fin Config.nip) (src : Word) :
    (s.storeMapped k src).wiring = s.wiring := by
  rw [State.storeMapped, noteSat_wiring, modifyIp_wiring]

@[simp] theorem runInterpIf_wiring (s : State) (k : Fin Config.nip) :
    (s.runInterpIf k).wiring = s.wiring := by
  rcases runInterpIf_cases s k with ⟨-, e⟩ | ⟨-, e⟩ <;> rw [e]
  rcases applyInterp_cases (s.drawSource s.ip[k].src) k s.ip[k].src with ⟨-, e⟩ | ⟨-, e⟩ <;> rw [e]
  · rw [storeMapped_wiring, drawSource_wiring]
  · rw [writeDest_wiring, storeMapped_wiring, drawSource_wiring]

@[simp] theorem runChannelIf_wiring (s : State) (c : Fin Config.nch) :
    (s.runChannelIf c).wiring = s.wiring := by
  rcases runChannelIf_cases s c with ⟨-, e⟩ | ⟨-, e⟩ <;> rw [e]
  rw [State.runChannel, noteSat_wiring]
  exact modifyCh_wiring s c fun x => by rw [channel_store_eq]

@[simp] theorem advanceRamp_wiring (s : State) : s.advanceRamp.wiring = s.wiring := by
  rcases advanceRamp_cases s with ⟨-, e⟩ | ⟨-, e⟩ | ⟨-, e⟩ <;> rw [e] <;> rfl

@[simp] theorem emitFrame_wiring (s : State) (i : Nat) (l r : Word) :
    (s.emitFrame i l r).wiring = s.wiring := by
  rw [State.emitFrame, State.wiring, State.wiring]
  simp only [writeFrame_status, writeFrame_ch]

@[simp] theorem stageOutput_wiring (s : State) (i : Nat) : (s.stageOutput i).wiring = s.wiring := by
  rw [stageOutput_eq_emitSides, State.emitSides, emitFrame_wiring, noteSat_wiring, advanceRamp_wiring]

theorem renderFrame_wiring (s : State) (i : Nat) : (s.renderFrame i).wiring = s.wiring :=
  calc (s.stageLfos.stageInterps.stageOscs.stageChannels.stageOutput i).wiring
    _ = s.stageLfos.stageInterps.stageOscs.stageChannels.wiring := stageOutput_wiring _ i
    _ = s.stageLfos.stageInterps.stageOscs.wiring :=
      forUnits_preserves State.wiring (fun c u => runChannelIf_wiring u c) _
    _ = s.stageLfos.stageInterps.wiring :=
      forUnits_preserves State.wiring (fun n u => fireIf_wiring u modeAudio n) _
    _ = s.stageLfos.wiring := forUnits_preserves State.wiring (fun k u => runInterpIf_wiring u k) _
    _ = s.wiring := forUnits_preserves State.wiring (fun n u => fireIf_wiring u modeLfoOnce n) _

theorem renderBlock_wiring (s : State) (n : Nat) : (s.renderBlock n).wiring = s.wiring :=
  renderFrom_keeps s (fun t => t.wiring = s.wiring) (fun t i h => (renderFrame_wiring t i).trans h) 0 n rfl

/-- RENDER sets no bit of STATUS but RANGE and SAT, and clears none. -/
theorem renderBlock_status_bit (s : State) (n : Nat) {j : Nat} (h8 : j ≠ 8) (h9 : j ≠ 9) :
    (s.renderBlock n).status.getLsbD j = s.status.getLsbD j := by
  rcases lt_or_ge j 32 with hlt | hge
  · have hmask : ∀ j < 32, j ≠ 8 → j ≠ 9 → (0xFFFFFCFF : Word).getLsbD j = true := by decide
    have hbit := congrArg (fun p => p.1.getLsbD j) (renderBlock_wiring s n)
    simpa only [State.wiring, BitVec.getLsbD_and, hmask j hlt h8 h9, Bool.and_true] using hbit
  · rw [BitVec.getLsbD_of_ge _ j hge, BitVec.getLsbD_of_ge _ j hge]

theorem renderBlock_tapSrc (s : State) (n : Nat) (c : Fin Config.nch) :
    (s.renderBlock n).ch[c].tapSrc = s.ch[c].tapSrc :=
  congrFun (congrArg Prod.snd (renderBlock_wiring s n)) c

/-! ### What no interpolator drives (R146) -/

theorem atUnit_readWord {limit : Nat} {unit : Byte} {write : Fin limit → State} {a : Nat}
    (hw : ∀ n, n.val = unit.toNat → (write n).readWord a = s.readWord a) :
    (atUnit unit write s).readWord a = s.readWord a := by
  unfold atUnit
  split
  · exact hw _ rfl
  · rfl

theorem atUnit_readWord_of_changesOnly {limit : Nat} {unit : Byte} {write : Fin limit → State} {v : Word}
    {a : Nat} (o : Nat → Nat) (hw : ∀ n, ChangesOnly s (write n) [(o n, v)]) (h4 : a % 4 = 0)
    (hne : o unit.toNat ≠ a) : (atUnit unit write s).readWord a = s.readWord a :=
  atUnit_readWord fun n hn => changesOnly_readWord (hw n) h4 (by simpa [hn] using hne)

/-- The write through any DEST leaves every register but the one that the DEST names (R146). -/
theorem writeDest_readWord_other (s : State) {d : Word} (v : Word) {a : Nat} (h4 : a % 4 = 0)
    (hne : destOffset d ≠ a) : (s.writeDest d v).readWord a = s.readWord a := by
  unfold destOffset at hne
  unfold State.writeDest
  generalize (headerOpc d).toNat = o at hne ⊢
  split
  case h_1 =>
    exact atUnit_readWord_of_changesOnly (oscOffset · 0x10)
      (changesOnly_oscRegisters s · [0x10] (by decide) (by simp [oscRegisters, Osc.read])) h4 hne
  case h_2 =>
    exact atUnit_readWord_of_changesOnly (oscOffset · 0x14)
      (changesOnly_oscRegisters s · [0x14] (by decide) (by simp [oscRegisters, Osc.read])) h4 hne
  case h_3 =>
    exact atUnit_readWord_of_changesOnly (oscOffset · 0x18)
      (changesOnly_oscRegisters s · [0x18] (by decide) (by simp [oscRegisters, Osc.read])) h4 hne
  case h_4 =>
    exact atUnit_readWord fun c hc =>
      atUnit_readWord_of_changesOnly (fun t => chOffset c (0x14 + 4 * t))
        (changesOnly_writeChTapGain s c · v) h4 (by rwa [hc])
  case h_7 =>
    exact atUnit_readWord fun c hc =>
      atUnit_readWord_of_changesOnly (fun k => chOffset c (0x2C + 4 * k))
        (changesOnly_writeChCoef s c · v) h4 (by rwa [hc])
  case h_5 =>
    exact atUnit_readWord_of_changesOnly (chOffset · 0x24) (changesOnly_chWord s · 9 rfl (by decide) rfl) h4 hne
  case h_6 =>
    exact atUnit_readWord_of_changesOnly (chOffset · 0x28) (changesOnly_chWord s · 10 rfl (by decide) rfl) h4 hne
  case h_8 =>
    exact atUnit_readWord_of_changesOnly (chOffset · 0x50) (changesOnly_chWord s · 20 rfl (by decide) rfl) h4 hne
  case h_9 =>
    exact atUnit_readWord_of_changesOnly (chOffset · 0x54) (changesOnly_chWord s · 21 rfl (by decide) rfl) h4 hne
  case h_10 =>
    exact atUnit_readWord_of_changesOnly (chOffset · 0x58) (changesOnly_chWord s · 22 rfl (by decide) rfl) h4 hne
  case h_11 =>
    exact atUnit_readWord_of_changesOnly (chOffset · 0x5C) (changesOnly_chWord s · 23 rfl (by decide) rfl) h4 hne
  case h_12 =>
    exact atUnit_readWord_of_changesOnly (ipOffset · 0x0C) (changesOnly_ipWord s · 3 rfl (by decide) rfl) h4 hne
  case h_13 =>
    exact atUnit_readWord_of_changesOnly (ipOffset · 0x10) (changesOnly_ipWord s · 4 rfl (by decide) rfl) h4 hne
  case h_14 => rfl

theorem runInterpIf_readWord_of_not_driven {a frames : Nat} (ha : StageKept frames a) (s : State)
    {k : Fin Config.nip} (hnone : s.drives k a = false) : (s.runInterpIf k).readWord a = s.readWord a := by
  rcases runInterpIf_cases s k with ⟨hen, e⟩ | ⟨-, e⟩ <;> rw [e]
  have hip : (s.drawSource s.ip[k].src).ip[k] = s.ip[k] := by rw [drawSource_ip]
  rcases applyInterp_cases (s.drawSource s.ip[k].src) k s.ip[k].src with ⟨-, e⟩ | ⟨h0, e⟩ <;> rw [e]
  · rw [storeMapped_readWord ha, drawSource_readWord ha]
  · rw [hip] at h0 ⊢
    have hne : destOffset s.ip[k].dest ≠ a := fun hdest => by
      rw [(drives_iff s k a).2 ⟨hen, h0, hdest⟩] at hnone
      contradiction
    rw [writeDest_readWord_other _ _ ha.1 hne, storeMapped_readWord ha, drawSource_readWord ha]

/-- From `s` to `t` the interpolators are routed as before, and a register reads as before. -/
def RegisterKept (a : Nat) (s t : State) : Prop :=
  (∀ k : Fin Config.nip, t.ip[k].routing = s.ip[k].routing) ∧ t.readWord a = s.readWord a

section Undriven

variable {a frames : Nat} (ha : StageKept frames a) (hnone : ∀ k, s.drives k a = false)

include ha hnone

/-- A register that no stage writes and no interpolator drives is as before when an interpolator's turn
comes. -/
theorem atInterp_registerKept {t : State} (h : RegisterKept a s t) (m : Nat) :
    RegisterKept a s (t.atInterp m) := by
  refine atInterp_keeps (RegisterKept a s) ?lfos (fun k u hu => ?turn) m
  case lfos =>
    obtain ⟨hrouting, hread⟩ := h
    refine ⟨fun k => by rw [stageLfos_ip, hrouting], ?_⟩
    exact (forUnits_preserves (·.readWord a) (fun n u => fireIf_readWord ha u modeLfoOnce n) t).trans hread
  case turn =>
    obtain ⟨hrouting, hread⟩ := hu
    refine ⟨fun j => (runInterpIf_ip_routing u k j).trans (hrouting j), ?_⟩
    rw [runInterpIf_readWord_of_not_driven ha u (by rw [drives_congr (hrouting k), hnone]), hread]

theorem renderBlock_registerKept {n : Nat} (hn : n ≤ frames) : RegisterKept a s (s.renderBlock n) := by
  induction n with
  | zero => exact ⟨fun _ => rfl, rfl⟩
  | succ n ih =>
    obtain ⟨hrouting, hread⟩ := atInterp_registerKept ha hnone (ih (by omega)) 16
    rw [renderBlock_succ]
    refine ⟨fun k => ?_, (renderFrame_readWord ha _ hn).trans hread⟩
    rw [renderFrame_ip]
    exact hrouting k

end Undriven

theorem renderBlock_ip_routing (s : State) (n : Nat) (k : Fin Config.nip) :
    (s.renderBlock n).ip[k].routing = s.ip[k].routing :=
  renderFrom_keeps s (fun t => t.ip[k].routing = s.ip[k].routing)
    (fun t i h => by rw [renderFrame_ip, atInterp_ip_routing, h]) 0 n rfl

end Sys2Proof.Machine

open Sys2Proof Sys2Proof.Machine

/-- Settles O24: the block's effect gives the globals and the units' set-up, its entries of OUTBUF the
samples, and the undriven registers are kept frame by frame. -/
theorem renderCompletesWithFrame : Obligations.RenderCompletesWithFrame := by
  intro s harg hmax
  have rendered := rendered_renderBlock s s.cmdArg.toNat
  have rest := atRestKept_renderBlock s s.cmdArg.toNat
  have above {a : Nat} (ha : 0x8000 + 8 * s.cmdArg.toNat ≤ a) :
      (s.renderBlock s.cmdArg.toNat).readWord a = s.readWord a :=
    renderFrom_readWord_other s 0 _ (by omega) (.inr (by rw [outbufOffset]; omega))
  refine ⟨_, exec_render harg, fun h => ?none, ?count, fun a ha => ?globals,
    fun j => renderBlock_status_bit s _, fun a h4 hstage hnone => ?undriven, fun n => ?osc, fun c => ?ch,
    fun k => ?ip, fun a _ => above, fun a ha => ?bytes, fun hpos => ?last,
    effect_sameSurroundings (rendered_effect rendered)⟩
  case none => rw [h]; rfl
  case count => rw [renderBlock_frameCount, BitVec.ofNat_toNat, BitVec.setWidth_eq]
  case globals =>
    have hlist : ∀ a ∈ [0x014, 0x018, 0x01C, 0x020, 0x024, 0x028, 0x030, 0x034, 0x038, 0x040],
        a < 0x1000 ∧ a ∉ [0x010, 0x02C, 0x03C, 0x044, 0x048, 0x04C] := by decide
    obtain ⟨hglobal, hother⟩ := hlist a ha
    rw [readWord_global _ hglobal, readWord_global _ hglobal, rendered_readGlobal rendered hother]
  case undriven =>
    obtain ⟨-, hread⟩ := renderBlock_registerKept ⟨h4, hstage⟩ hnone le_rfl
    exact ⟨hread, fun j hj => by rw [readByte_eq _ h4 hj, readByte_eq _ h4 hj, hread]⟩
  case osc =>
    obtain ⟨hfreq, hpinc⟩ := Prod.mk.inj (rendered.pitch n)
    exact ⟨hfreq, hpinc, congrArg Prod.fst (rest.osc n)⟩
  case ch => exact ⟨congrArg Prod.fst (rest.ch c), renderBlock_tapSrc s _ c⟩
  case ip =>
    have hrouting := renderBlock_ip_routing s s.cmdArg.toNat k
    simpa only [Interp.routing, Prod.mk.injEq] using hrouting
  case bytes => rw [State.readByte, State.readByte, above (by omega)]
  case last =>
    obtain ⟨n, hn⟩ := Nat.exists_eq_succ_of_ne_zero hpos.ne'
    have hlast := renderFrom_readWord_last s (i := 0) (n := n) (by simp only [Config.outbufCap]; omega)
    rw [hn, State.renderBlock]
    simpa [outbufOffset, Nat.add_right_comm] using hlast
end

section
/-! PROOF. A block of frames in two parts (R175, R206, R207; O25): RENDER reads neither its operand's register
nor the entry number that it writes to, so the frames are the same wherever the block is cut. -/

namespace Sys2Proof.Machine

variable {s t : State}

/-! ### The frames do not read CMD_ARG -/

/-- `t` is `s` with operand `a` in CMD_ARG (R33). -/
def Relatched (a : Word) (s t : State) : Prop := t = { s with cmdArg := a }

/-- The operation neither reads CMD_ARG nor writes it. -/
def IgnoresOperand (f : State → State) : Prop :=
  ∀ ⦃a : Word⦄ ⦃s t : State⦄, Relatched a s t → Relatched a (f s) (f t)

theorem ignoresOperand_of_with {f : State → State}
    (h : ∀ (s : State) (a : Word), Relatched a (f s) (f { s with cmdArg := a })) : IgnoresOperand f := by
  rintro a s t rfl
  exact h s a

theorem ite_relatched {a : Word} {c : Prop} [Decidable c] {s' t' : State} (h : Relatched a s t)
    (h' : Relatched a s' t') : Relatched a (if c then s else s') (if c then t else t') := by
  split_ifs
  · exact h
  · exact h'

theorem forUnits_ignoresOperand {n : Nat} {f : Fin n → State → State} (hf : ∀ k, IgnoresOperand (f k)) :
    IgnoresOperand (forUnits n f) := by
  unfold forUnits
  generalize List.finRange n = ks
  induction ks with
  | nil => exact fun _ _ _ h => h
  | cons k ks ih => exact fun _ _ _ h => ih (hf k h)

theorem noteRange_ignoresOperand (b : Bool) : IgnoresOperand (·.noteRange b) :=
  ignoresOperand_of_with fun _ _ => ite_relatched rfl rfl

theorem noteSat_ignoresOperand (b : Bool) : IgnoresOperand (·.noteSat b) :=
  ignoresOperand_of_with fun _ _ => ite_relatched rfl rfl

theorem fire_ignoresOperand (n : Fin Config.nosc) : IgnoresOperand (·.fire n) :=
  ignoresOperand_of_with fun s a => by
    rw [fire_eq_noteRange, fire_eq_noteRange]
    exact noteRange_ignoresOperand _ rfl

theorem fireIf_ignoresOperand (mode : BitVec 2) (n : Fin Config.nosc) : IgnoresOperand (·.fireIf mode n) :=
  ignoresOperand_of_with fun _ _ => ite_relatched (fire_ignoresOperand n rfl) rfl

theorem drawSource_ignoresOperand (src : Word) : IgnoresOperand (·.drawSource src) := by
  intro a s t h
  dsimp only [State.drawSource]
  split
  · exact fireIf_ignoresOperand _ _ h
  · exact h

theorem atUnit_relatched {a : Word} {limit : Nat} {unit : Byte} {write write' : Fin limit → State}
    (hw : ∀ n, Relatched a (write n) (write' n)) (h : Relatched a s t) :
    Relatched a (atUnit unit write s) (atUnit unit write' t) := by
  unfold atUnit
  split
  · exact hw _
  · exact h

/-- Whichever register the destination names, its write is the operand's alone (R146). -/
theorem writeDest_ignoresOperand (d v : Word) : IgnoresOperand (·.writeDest d v) := by
  refine ignoresOperand_of_with fun s a => ?_
  dsimp only [State.writeDest]
  split
  case h_4 | h_7 => exact atUnit_relatched (fun _ => atUnit_relatched (fun _ => rfl) rfl) rfl
  case h_14 => rfl
  all_goals exact atUnit_relatched (fun _ => rfl) rfl

theorem applyInterp_ignoresOperand (k : Fin Config.nip) (src : Word) :
    IgnoresOperand (·.applyInterp k src) := by
  refine ignoresOperand_of_with fun s a => ?_
  have noted (y : Int) (f : Interp → Interp) :
      Relatched a ((s.modifyIp k f).noteSat (saturates y))
        ((State.modifyIp { s with cmdArg := a } k f).noteSat (saturates y)) :=
    noteSat_ignoresOperand _ rfl
  exact ite_relatched (noted _ _) (writeDest_ignoresOperand _ _ (noted _ _))

theorem runInterpIf_ignoresOperand (k : Fin Config.nip) : IgnoresOperand (·.runInterpIf k) := by
  refine ignoresOperand_of_with fun s a => ite_relatched ?_ rfl
  rw [runInterp_eq_applyInterp, runInterp_eq_applyInterp]
  exact applyInterp_ignoresOperand k _ (drawSource_ignoresOperand _ rfl)

theorem runChannelIf_ignoresOperand (c : Fin Config.nch) : IgnoresOperand (·.runChannelIf c) :=
  ignoresOperand_of_with fun _ _ => ite_relatched (noteSat_ignoresOperand _ rfl) rfl

theorem advanceRamp_ignoresOperand : IgnoresOperand State.advanceRamp :=
  ignoresOperand_of_with fun _ _ => ite_relatched rfl (ite_relatched rfl rfl)

theorem emitFrame_ignoresOperand (i : Nat) (l r : Word) : IgnoresOperand (·.emitFrame i l r) := by
  refine ignoresOperand_of_with fun s a => ?_
  unfold State.emitFrame State.writeFrame
  split_ifs <;> rfl

theorem emitSides_ignoresOperand (i : Nat) (lMix rMix : Int) : IgnoresOperand (·.emitSides i lMix rMix) :=
  ignoresOperand_of_with fun _ _ => emitFrame_ignoresOperand i _ _ (noteSat_ignoresOperand _ rfl)

theorem stageOutput_ignoresOperand (i : Nat) : IgnoresOperand (·.stageOutput i) :=
  ignoresOperand_of_with fun s a => by
    rw [stageOutput_eq_emitSides, stageOutput_eq_emitSides]
    exact emitSides_ignoresOperand i _ _ (advanceRamp_ignoresOperand rfl)

theorem renderFrame_ignoresOperand (i : Nat) : IgnoresOperand (·.renderFrame i) := by
  intro a s t h
  have lfos := forUnits_ignoresOperand (fireIf_ignoresOperand modeLfoOnce) h
  have interps := forUnits_ignoresOperand runInterpIf_ignoresOperand lfos
  have oscs := forUnits_ignoresOperand (fireIf_ignoresOperand modeAudio) interps
  exact stageOutput_ignoresOperand i (forUnits_ignoresOperand runChannelIf_ignoresOperand oscs)

theorem renderFrom_ignoresOperand (i n : Nat) : IgnoresOperand (·.renderFrom i n) := by
  induction n generalizing i with
  | zero => exact fun _ _ _ h => h
  | succ n ih => exact fun _ _ _ h => ih (i + 1) (renderFrame_ignoresOperand i h)

/-! ### The frames do not read the entry number -/

theorem sameRegisters_trans {u : State} (h : SameRegisters s t) (h' : SameRegisters t u) : SameRegisters s u :=
  h.trans h'

theorem emitFrame_sameRegisters (s : State) (i j : Nat) (l r : Word) :
    SameRegisters (s.emitFrame i l r) (s.emitFrame j l r) := by
  unfold State.emitFrame State.writeFrame
  split_ifs <;> rfl

/-- Two blocks of frames leave the same registers, whichever entries they write. -/
theorem renderFrame_sameRegisters (h : SameRegisters s t) (i j : Nat) :
    SameRegisters (s.renderFrame i) (t.renderFrame j) := by
  have moved : SameRegisters (s.renderFrame i) (s.renderFrame j) := by
    rw [renderFrame_eq, renderFrame_eq, stageOutput_eq_emitSides, stageOutput_eq_emitSides]
    exact emitFrame_sameRegisters _ i j _ _
  exact sameRegisters_trans moved (renderFrame_ignoresOutbuf j h)

theorem renderFrom_sameRegisters (h : SameRegisters s t) (i j n : Nat) :
    SameRegisters (s.renderFrom i n) (t.renderFrom j n) := by
  induction n generalizing s t i j with
  | zero => exact h
  | succ n ih => exact ih (renderFrame_sameRegisters h i j) (i + 1) (j + 1)

theorem sameRegisters_last (h : SameRegisters s t) : s.lastL = t.lastL ∧ s.lastR = t.lastR :=
  ⟨(congrArg State.lastL h :), (congrArg State.lastR h :)⟩

theorem sameRegisters_withOperand (h : SameRegisters s t) (a : Word) :
    SameRegisters { s with cmdArg := a } { t with cmdArg := a } := by
  obtain ⟨m, rfl⟩ := sameRegisters_iff.1 h
  rfl

/-- Entry by entry, two blocks of frames write the same samples. -/
theorem renderFrom_same_entries (h : SameRegisters s t) {i j n k : Nat} (hk : k < n)
    (hi : i + n ≤ Config.outbufCap) (hj : j + n ≤ Config.outbufCap) :
    (s.renderFrom i n).readWord (outbufOffset (i + k)) = (t.renderFrom j n).readWord (outbufOffset (j + k)) ∧
      (s.renderFrom i n).readWord (outbufOffset (i + k) + 4) =
        (t.renderFrom j n).readWord (outbufOffset (j + k) + 4) := by
  obtain ⟨hleft, hright⟩ := renderFrom_readWord_entry s hk hi
  obtain ⟨hleft', hright'⟩ := renderFrom_readWord_entry t hk hj
  obtain ⟨hL, hR⟩ := sameRegisters_last (renderFrom_sameRegisters h i j (k + 1))
  exact ⟨by rw [hleft, hleft', hL], by rw [hright, hright', hR]⟩

/-! ### RENDER with an operand of its own -/

/-- Words of OUTBUF read alike whatever operand is latched. -/
theorem readWord_withOperand {o o' : Nat} (ho : 0x8000 ≤ o) (ho' : 0x8000 ≤ o')
    (h : s.readWord o = t.readWord o') (a b : Word) :
    State.readWord { s with cmdArg := a } o = State.readWord { t with cmdArg := b } o' := by
  have hs := outbufKept_readWord (s := s) (t := { s with cmdArg := a }) ⟨rfl, rfl⟩ ho
  have ht := outbufKept_readWord (s := t) (t := { t with cmdArg := b }) ⟨rfl, rfl⟩ ho'
  rw [hs, ht, h]

theorem outbufOffset_right (i : Nat) : outbufOffset i + 4 = 0x8004 + 8 * i := by
  rw [outbufOffset]; omega

/-- RENDER with `n` latched as its operand: the block of `n` frames, with `n` still latched. -/
theorem exec_render_withOperand (s : State) {n : Nat} (hn : n ≤ s.maxBlock.toNat)
    (hmax : s.maxBlock.toNat ≤ 1024) :
    exec .render { s with cmdArg := BitVec.ofNat 32 n } =
      .next { s.renderBlock n with cmdArg := BitVec.ofNat 32 n } := by
  have hoperand : (BitVec.ofNat 32 n).toNat = n := Nat.mod_eq_of_lt (by omega)
  have hblock : State.renderBlock { s with cmdArg := BitVec.ofNat 32 n } n =
      { s.renderBlock n with cmdArg := BitVec.ofNat 32 n } := renderFrom_ignoresOperand 0 n rfl
  rw [exec_render (hoperand.trans_le hn), ← hblock]
  exact congrArg (fun m => Host.Outcome.next (State.renderBlock _ m)) hoperand

end Sys2Proof.Machine

open Sys2Proof Sys2Proof.Machine

/-- Settles O25: the second block's frames run on the registers that the first block leaves, wherever their
samples go. -/
theorem renderSplitsIntoBlocks : Obligations.RenderSplitsIntoBlocks := by
  intro s n m hsum hmax
  have hcap : n + m ≤ Config.outbufCap := hsum.trans hmax
  have hmax' : (s.renderBlock n).maxBlock = s.maxBlock :=
    effect_maxBlock (rendered_effect (rendered_renderBlock s n)) (by decide) (by decide)
  have hwhole : s.renderBlock (n + m) = (s.renderBlock n).renderFrom n m := by
    rw [State.renderBlock, renderFrom_add, Nat.zero_add]; rfl
  refine ⟨_, _, _, exec_render_withOperand s hsum hmax, exec_render_withOperand s (by omega) hmax,
    exec_render_withOperand (s.renderBlock n) (by rw [hmax']; omega) (by rw [hmax']; exact hmax),
    ?registers, fun i hi => ?first, fun i hi => ?second⟩
  case registers =>
    rw [hwhole]
    exact sameRegisters_withOperand (renderFrom_sameRegisters rfl n 0 m) 0
  case first =>
    have hkept {o : Nat} (hlo : 0x8000 ≤ o) (hhi : o + 4 ≤ 0x8000 + 8 * n) :
        (s.renderBlock n).readWord o = (s.renderBlock (n + m)).readWord o := by
      rw [hwhole]
      exact (renderFrom_readWord_other _ n m hlo (.inl hhi)).symm
    exact ⟨readWord_withOperand (by omega) (by omega) (hkept (by omega) (by omega)) _ _,
      readWord_withOperand (by omega) (by omega) (hkept (by omega) (by omega)) _ _⟩
  case second =>
    obtain ⟨left, right⟩ :=
      renderFrom_same_entries (s := s.renderBlock n) rfl (i := 0) (j := n) hi (by omega) hcap
    rw [← hwhole, Nat.zero_add] at left right
    rw [outbufOffset_right, outbufOffset_right] at right
    rw [outbufOffset, outbufOffset] at left
    exact ⟨readWord_withOperand (by omega) (by omega) left _ _,
      readWord_withOperand (by omega) (by omega) right _ _⟩
end

section
/-! PROOF. The firings of a frame (R103, R110, R165, R167; O44): what stages 1 and 3 make of an oscillator, and
STATUS.RANGE, which a firing of any stage sets where its increment leaves one cycle (R101). -/

namespace Sys2Proof.Machine

variable {s : State}

/-! ### PHASE and OUT -/

/-- Stage 2 draws only LFO_PER_READ oscillators (R142): of the others it leaves all but PW, FMUL and POFF as
stage 1 left it. -/
theorem atInterp_osc_undriven_of_not_perRead {n : Fin Config.nosc} (hmode : s.osc[n].mode ≠ modeLfoPerRead)
    {k : Nat} (hk : k ≤ 16) :
    (s.atInterp k).osc[n].undriven = (s.osc[n].firedIn modeLfoOnce).undriven := by
  induction k with
  | zero => exact congrArg Osc.undriven (forUnits_fireIf_osc s modeLfoOnce n)
  | succ k ih =>
    obtain ⟨k, rfl⟩ : ∃ j : Fin Config.nip, j.val = k := ⟨⟨k, hk⟩, rfl⟩
    have hidle := firedIn_eq_self (atInterp_osc_ctrl s k.val n) (mode := modeLfoPerRead) fun h => hmode h.2
    rw [atInterp_succ_osc_undriven, hidle, ite_self, ih (by omega)]

theorem undriven_phase_out {o o' : Osc} (h : o.undriven = o'.undriven) :
    o.phase = o'.phase ∧ o.out = o'.out := by
  simp only [Osc.undriven, Prod.mk.injEq] at h
  obtain ⟨-, -, hphase, -, hout⟩ := h
  exact ⟨hphase, hout⟩

/-- An LFO_ONCE oscillator fires in stage 1, on the registers that it had before the frame (R165). -/
theorem renderFrame_lfoOnce_fired (i : Nat) {n : Fin Config.nosc} (hen : s.osc[n].en = true)
    (hmode : s.osc[n].mode = modeLfoOnce) :
    (s.renderFrame i).osc[n].phase = s.osc[n].fired.phase ∧
      (s.renderFrame i).osc[n].out = s.osc[n].fired.out := by
  have hother {mode : BitVec 2} (hne : modeLfoOnce ≠ mode) : s.osc[n].mode ≠ mode := hmode ▸ hne
  rw [renderFrame_osc, firedIn_eq_self (atInterp_osc_ctrl s 16 n) fun h => hother (by decide) h.2,
    ← firedIn_eq_fired rfl hen hmode]
  exact undriven_phase_out (atInterp_osc_undriven_of_not_perRead (hother (by decide)) le_rfl)

/-- A firing does not read OUT. -/
theorem osc_fired_of_out (o : Osc) (v : Word) : ({ o with out := v } : Osc).fired = o.fired := by
  have hdbl : ({ o with out := v } : Osc).dbl = o.dbl := rfl
  unfold Osc.fired
  rw [hdbl]
  split <;> rfl

/-- A fired oscillator put back to the phase that it had fires the same again. -/
theorem osc_fired_rewound (o : Osc) : ({ o.fired with phase := o.phase } : Osc).fired = o.fired := by
  have hrewound : ({ o.fired with phase := o.phase } : Osc) = { o with out := o.fired.out } := by
    conv_lhs => rw [osc_fired_eq]
  rw [hrewound, osc_fired_of_out]

/-- An AUDIO oscillator fires in stage 3, on the registers that the interpolators left, from the phase that it
had before the frame (R167). -/
theorem renderFrame_audio_fired (i : Nat) {n : Fin Config.nosc} (hen : s.osc[n].en = true)
    (hmode : s.osc[n].mode = modeAudio) :
    (s.renderFrame i).osc[n] = ({ (s.renderFrame i).osc[n] with phase := s.osc[n].phase } : Osc).fired := by
  have hother {mode : BitVec 2} (hne : modeAudio ≠ mode) : s.osc[n].mode ≠ mode := hmode ▸ hne
  have hidle : s.osc[n].firedIn modeLfoOnce = s.osc[n] :=
    firedIn_eq_self rfl fun h => hother (by decide) h.2
  have hundriven := atInterp_osc_undriven_of_not_perRead (s := s) (hother (by decide)) le_rfl
  obtain ⟨hphase, -⟩ := undriven_phase_out (hundriven.trans (congrArg Osc.undriven hidle))
  rw [renderFrame_osc, firedIn_eq_fired (atInterp_osc_ctrl s 16 n) hen hmode, ← hphase, osc_fired_rewound]

/-! ### STATUS.RANGE after one turn (R101) -/

theorem getLsbD_eight_flagged_range (w : Word) (b : Bool) :
    (flagged w 0x100 b).getLsbD 8 = (w.getLsbD 8 || b) := by
  cases b <;> simp [flagged]

theorem getLsbD_eight_flagged_sat (w : Word) (b : Bool) :
    (flagged w 0x200 b).getLsbD 8 = w.getLsbD 8 := by
  cases b <;> simp [flagged]

theorem outOfRange32_iff_outsideCycle (d : Int) : outOfRange32 d = true ↔ outsideCycle d := by
  rw [outOfRange32_eq_decide, decide_eq_true_iff]; rfl

@[simp] theorem noteSat_rangeFlag (s : State) (b : Bool) : (s.noteSat b).rangeFlag = s.rangeFlag := by
  rw [noteSat_flagged]; exact getLsbD_eight_flagged_sat _ _

/-- A firing's increment leaves one cycle: an oscillator enabled in the mode with such an increment. -/
def Osc.FiresOutside (mode : BitVec 2) (o : Osc) : Prop :=
  (o.en = true ∧ o.mode = mode) ∧ outsideCycle (phaseStep o)

/-- It is read off CTRL, PINC and FMUL. -/
theorem firesOutside_congr {o o' : Osc} (hctrl : o.ctrl = o'.ctrl) (hpinc : o.pinc = o'.pinc)
    (hfmul : o.fmul = o'.fmul) (mode : BitVec 2) : o.FiresOutside mode ↔ o'.FiresOutside mode := by
  rw [Osc.FiresOutside, Osc.FiresOutside, phaseStep, phaseStep, Osc.en, Osc.en, Osc.mode, Osc.mode, hctrl,
    hpinc, hfmul]

theorem fire_rangeFlag_iff (s : State) (n : Fin Config.nosc) :
    (s.fire n).rangeFlag = true ↔ s.rangeFlag = true ∨ outsideCycle (phaseStep s.osc[n]) := by
  have hflag : (s.fire n).rangeFlag = (s.rangeFlag || outOfRange32 s.osc[n].increment) := by
    rw [fire_eq]; exact getLsbD_eight_flagged_range _ _
  rw [hflag, Bool.or_eq_true, outOfRange32_iff_outsideCycle, phaseStep_eq_increment]

theorem fireIf_rangeFlag_iff (s : State) (mode : BitVec 2) (n : Fin Config.nosc) :
    (s.fireIf mode n).rangeFlag = true ↔ s.rangeFlag = true ∨ s.osc[n].FiresOutside mode := by
  rcases fireIf_cases s mode n with ⟨hen, hmode, e⟩ | ⟨h, e⟩ <;> rw [e]
  · rw [fire_rangeFlag_iff, Osc.FiresOutside, and_iff_right ⟨hen, hmode⟩]
  · exact (or_iff_left fun hout => h hout.1).symm

/-- Stages 1 and 3: RANGE is set where some enabled oscillator of the mode fires outside (R165, R167). -/
theorem forUnits_fireIf_rangeFlag_iff (s : State) (mode : BitVec 2) :
    (forUnits Config.nosc (fun n s => s.fireIf mode n) s).rangeFlag = true ↔
      s.rangeFlag = true ∨ ∃ n : Fin Config.nosc, s.osc[n].FiresOutside mode :=
  forUnits_sets_iff (·.rangeFlag = true) (fun n t => t.osc[n].FiresOutside mode)
    (fun n t => fireIf_rangeFlag_iff t mode n)
    (fun n m t h => by simp only [fireIf_osc_eq]; rw [modifyOsc_osc_other t _ h]) s

theorem drawSource_rangeFlag_iff (s : State) (src : Word) :
    (s.drawSource src).rangeFlag = true ↔
      s.rangeFlag = true ∨
        ∃ n : Fin Config.nosc, src.toNat = n.val ∧ s.osc[n].FiresOutside modeLfoPerRead := by
  unfold State.drawSource
  split
  case isTrue h =>
    rw [fireIf_rangeFlag_iff]
    refine or_congr_right ⟨fun hout => ⟨_, rfl, hout⟩, ?_⟩
    rintro ⟨n, hn, hout⟩
    obtain rfl : (⟨src.toNat, h⟩ : Fin Config.nosc) = n := Fin.ext hn
    exact hout
  case isFalse h => exact (or_iff_left fun ⟨n, hn, _⟩ => h (hn ▸ n.isLt)).symm

theorem writeDest_status (s : State) (d a : Word) : (s.writeDest d a).status = s.status := by
  rcases writeDest_cases s d a with e | ⟨n, f, e, -⟩ | ⟨c, f, e, -⟩ | ⟨k, f, e, -⟩ <;> rw [e] <;> rfl

theorem applyInterp_rangeFlag (s : State) (k : Fin Config.nip) (src : Word) :
    (s.applyInterp k src).rangeFlag = s.rangeFlag := by
  have stored : (s.storeMapped k src).rangeFlag = s.rangeFlag := noteSat_rangeFlag _ _
  rcases applyInterp_cases s k src with ⟨-, e⟩ | ⟨-, e⟩ <;> rw [e]
  · exact stored
  · rw [State.rangeFlag, writeDest_status]; exact stored

/-- An interpolator's turn sets RANGE where the oscillator that it draws fires outside (R142). -/
theorem runInterpIf_rangeFlag_iff (s : State) (k : Fin Config.nip) :
    (s.runInterpIf k).rangeFlag = true ↔
      s.rangeFlag = true ∨
        ∃ n : Fin Config.nosc, s.reads k n = true ∧ s.osc[n].FiresOutside modeLfoPerRead := by
  simp only [reads_iff]
  rcases runInterpIf_cases s k with ⟨hen, e⟩ | ⟨hen, e⟩ <;> rw [e]
  · simp only [applyInterp_rangeFlag, drawSource_rangeFlag_iff, hen, true_and]
  · exact (or_iff_left fun ⟨n, hn, _⟩ => hen hn.1).symm

@[simp] theorem runChannelIf_rangeFlag (s : State) (c : Fin Config.nch) :
    (s.runChannelIf c).rangeFlag = s.rangeFlag := by
  rcases runChannelIf_cases s c with ⟨-, e⟩ | ⟨-, e⟩ <;> rw [e]
  exact noteSat_rangeFlag _ _

@[simp] theorem advanceRamp_rangeFlag (s : State) : s.advanceRamp.rangeFlag = s.rangeFlag := by
  rcases advanceRamp_cases s with ⟨-, e⟩ | ⟨-, e⟩ | ⟨-, e⟩ <;> rw [e] <;> rfl

@[simp] theorem stageOutput_rangeFlag (s : State) (i : Nat) : (s.stageOutput i).rangeFlag = s.rangeFlag := by
  have emitted (t : State) (l r : Word) : (t.emitFrame i l r).rangeFlag = t.rangeFlag :=
    congrArg (fun w : Word => w.getLsbD 8) (writeFrame_status t i l r)
  rw [stageOutput_eq_emitSides, State.emitSides, emitted, noteSat_rangeFlag, advanceRamp_rangeFlag]

/-! ### STATUS.RANGE after the frame -/

/-- In a frame from `s` to `t` interpolator `k` draws oscillator `n` with an increment outside one cycle, on
the FMUL that it sees (R142, R147). -/
def State.DrawsOutside (s t : State) (k : Fin Config.nip) (n : Fin Config.nosc) : Prop :=
  s.reads k n = true ∧
    ({ s.osc[n] with fmul := s.seenBy t k (oscOffset n 0x14) } : Osc).FiresOutside modeLfoPerRead

/-- FMUL leaves CTRL alone: the enable and the mode are those of the oscillator itself. -/
theorem drawsOutside_iff (s t : State) (k : Fin Config.nip) (n : Fin Config.nosc) :
    s.DrawsOutside t k n ↔
      (s.osc[n].en = true ∧ s.osc[n].mode = modeLfoPerRead) ∧ s.reads k n = true ∧
        outsideCycle (phaseStep { s.osc[n] with fmul := s.seenBy t k (oscOffset n 0x14) }) :=
  and_left_comm

theorem atInterp_osc_pitch (s : State) (k : Nat) (n : Fin Config.nosc) :
    (s.atInterp k).osc[n].pitch = s.osc[n].pitch := by
  have hlfos : Rendered s s.stageLfos :=
    forUnits_keeps (Rendered s) (fun m _ ht => rendered_fireIf ht modeLfoOnce m) (rendered_refl s)
  exact (atInterp_keeps (Rendered s) hlfos (fun j _ ht => rendered_runInterpIf ht j) k).pitch n

/-- At its turn an interpolator draws with the FMUL that it sees. -/
theorem atInterp_draws_iff (i : Nat) (hd : s.destsValid) (k : Fin Config.nip) (n : Fin Config.nosc) :
    ((s.atInterp k.val).reads k n = true ∧ (s.atInterp k.val).osc[n].FiresOutside modeLfoPerRead) ↔
      s.DrawsOutside (s.renderFrame i) k n := by
  have hfmul : (s.atInterp k.val).osc[n].fmul = s.seenBy (s.renderFrame i) k (oscOffset n 0x14) := by
    rw [← atInterp_readWord i hd (stageKept_osc (frames := 1) n.isLt (by decide)) k.isLt.le]
    exact (readWord_osc _ n (k := 0x14) (by decide)).symm
  rw [State.DrawsOutside, reads_congr (atInterp_ip_routing s k.val k)]
  exact and_congr_right fun _ =>
    firesOutside_congr (o' := { s.osc[n] with fmul := s.seenBy (s.renderFrame i) k (oscOffset n 0x14) })
      (atInterp_osc_ctrl s k.val n) (congrArg Prod.snd (atInterp_osc_pitch s k.val n)) hfmul modeLfoPerRead

/-- Stage 2: RANGE is set where stage 1 left it set or some draw is outside. -/
theorem atInterp_rangeFlag_iff (i : Nat) (hd : s.destsValid) {k : Nat} (hk : k ≤ 16) :
    (s.atInterp k).rangeFlag = true ↔
      s.stageLfos.rangeFlag = true ∨
        ∃ j : Fin Config.nip, j.val < k ∧ ∃ n, s.DrawsOutside (s.renderFrame i) j n := by
  induction k with
  | zero => exact (or_iff_left fun ⟨_, h, _⟩ => absurd h (Nat.not_lt_zero _)).symm
  | succ k ih =>
    obtain ⟨k, rfl⟩ : ∃ j : Fin Config.nip, j.val = k := ⟨⟨k, hk⟩, rfl⟩
    simp only [atInterp_succ, runInterpIf_rangeFlag_iff, ih (by omega), atInterp_draws_iff i hd, or_assoc,
      Nat.lt_succ_iff_lt_or_eq, ← Fin.ext_iff, or_and_right, exists_or, exists_eq_left]

theorem phaseStep_firedIn (mode : BitVec 2) (o : Osc) : phaseStep (o.firedIn mode) = phaseStep o := by
  unfold Osc.firedIn
  split
  · rw [osc_fired_eq]; rfl
  · rfl

/-- In stage 3 an AUDIO oscillator fires with the increment that the frame leaves it. -/
theorem atInterp_firesOutside_iff (i : Nat) (n : Fin Config.nosc) :
    (s.atInterp 16).osc[n].FiresOutside modeAudio ↔
      (s.osc[n].en = true ∧ s.osc[n].mode = modeAudio) ∧
        outsideCycle (phaseStep (s.renderFrame i).osc[n]) := by
  rw [Osc.FiresOutside, Osc.en, Osc.mode, atInterp_osc_ctrl, renderFrame_osc, phaseStep_firedIn]
  rfl

/-- After a frame RANGE is set where it was set before, or where some firing was outside: of stage 1, of a
draw in stage 2, or of stage 3. -/
theorem renderFrame_rangeFlag_iff (i : Nat) (hd : s.destsValid) :
    (s.renderFrame i).rangeFlag = true ↔
      s.rangeFlag = true ∨ (∃ n : Fin Config.nosc, s.osc[n].FiresOutside modeLfoOnce) ∨
        (∃ k n, s.DrawsOutside (s.renderFrame i) k n) ∨
        ∃ n : Fin Config.nosc, (s.atInterp 16).osc[n].FiresOutside modeAudio := by
  have hlfos : s.stageLfos.rangeFlag = true ↔ _ := forUnits_fireIf_rangeFlag_iff s modeLfoOnce
  have hoscs : (s.atInterp 16).stageOscs.rangeFlag = true ↔ _ :=
    forUnits_fireIf_rangeFlag_iff (s.atInterp 16) modeAudio
  have hchannels : s.inputsReady.stageChannels.rangeFlag = s.inputsReady.rangeFlag :=
    forUnits_preserves State.rangeFlag (fun c t => runChannelIf_rangeFlag t c) _
  have hall (k : Fin Config.nip) : k.val < 16 := k.isLt
  have hflag : (s.renderFrame i).rangeFlag = (s.atInterp 16).stageOscs.rangeFlag := by
    rw [renderFrame_eq, stageOutput_rangeFlag, hchannels, inputsReady_eq_stageOscs]
  rw [hflag, hoscs, atInterp_rangeFlag_iff i hd le_rfl, hlfos]
  simp only [hall, true_and, or_assoc]

end Sys2Proof.Machine

open Sys2Proof Sys2Proof.Machine

/-- Settles O44: the firings of the three kinds of oscillator, gathered unit by unit. -/
theorem oscillatorsFireOncePerFrame : Obligations.OscillatorsFireOncePerFrame := by
  intro s harg hmax
  refine ⟨s.renderFrame 0, exec_render_one hmax harg, fun n hen => ⟨fun hmode => ?once, fun hmode => ?audio⟩,
    fun hd => ?range⟩
  case once => exact renderFrame_lfoOnce_fired 0 hen hmode
  case audio =>
    have hfired := renderFrame_audio_fired 0 hen hmode
    exact ⟨congrArg Osc.phase hfired, congrArg Osc.out hfired⟩
  case range =>
    rw [renderFrame_rangeFlag_iff 0 hd, exists_comm (α := Fin Config.nip), ← exists_or, ← exists_or]
    refine or_congr_right (exists_congr fun n => ?_)
    rw [atInterp_firesOutside_iff 0]
    simp only [drawsOutside_iff, Osc.FiresOutside, reads_iff, exists_and_left, and_assoc, ← and_or_left]
    exact and_congr_right fun _ => or_congr_right or_comm
end

section
/-! PROOF. Failed commands and idle time (60_exceptions.md): the record of the first error (R181, R182, R184;
O6), and a block with no access to come (R193, R198; O8). -/

namespace Sys2Proof.Machine

/-! ### STATUS after a first failure (R181) -/

@[simp] theorem failedStatus_getLsbD_zero (status : Word) (e : CmdErr) :
    (failedStatus status e).getLsbD 0 = true := by
  simp [failedStatus, getLsbD_setBits, bit]

@[simp] theorem failedStatus_errCode (status : Word) (e : CmdErr) :
    (failedStatus status e).extractLsb' 4 4 = errCodeOf e :=
  extractLsb'_setBits_same _ 4 (errCodeOf e) (by decide)

/-- A first failure writes ERR (bit 0) and ERRCODE (bits 7:4) of STATUS, and no other bit (R31). -/
theorem failedStatus_getLsbD_other (status : Word) (e : CmdErr) {j : Nat} (herr : j ≠ 0)
    (hcode : j < 4 ∨ 8 ≤ j) : (failedStatus status e).getLsbD j = status.getLsbD j := by
  rw [failedStatus, getLsbD_setBits, if_neg (by omega), getLsbD_setBits, if_neg (by omega)]

/-- The codes that ERRCODE takes are the numbers of R179. -/
theorem errCodeOf_toNat (e : CmdErr) : (errCodeOf e).toNat = errorNumber e := by cases e <;> rfl

/-! ### The failing command, by whether an error stands (R181) -/

theorem cmdError_of_err {s : State} (he : s.err = true) (e : CmdErr) (h : Word) : s.cmdError e h = s :=
  if_pos he

theorem cmdError_status_of_no_err {s : State} (he : s.err = false) (e : CmdErr) (h : Word) :
    (s.cmdError e h).status = failedStatus s.status e := by
  rw [State.cmdError, if_neg (by simp [he])]

end Sys2Proof.Machine

open Sys2Proof Sys2Proof.Machine

/-- Settles O6, by whether an error stands. -/
theorem failedCommandRecordsFirstError : Obligations.FailedCommandRecordsFirstError := by
  refine fun s e h => ⟨fun he => cmdError_of_err he e h, fun he => ?first⟩
  have hstatus := cmdError_status_of_no_err he e h
  rw [State.err, State.errCode, hstatus, failedStatus_errCode]
  exact ⟨failedStatus_getLsbD_zero _ e, errCodeOf_toNat e,
    fun _ hj hj' => failedStatus_getLsbD_other _ e hj hj', changesOnly_cmdError s e h he⟩

/-- Settles O8. -/
theorem idleBlockKeepsState : Obligations.IdleBlockKeepsState := fun _ => step_of_no_event
end

section
/-! PROOF. Several instances in one address map (R66, R191; O59): windows at different bases are disjoint, so
an access reaches one instance at most. -/

namespace Sys2Proof.Machine

variable {b b' : Placement} {rest q : Platform} {addr : Nat} {event : Nat → BusEvent}

/-! ### The windows (R66) -/

/-- The base of a well-placed instance is the address without its offset in the window. -/
theorem base_eq_of_holds (halign : b.base % windowSize = 0) (h : b.holds addr = true) :
    b.base = addr - addr % windowSize := by
  simp only [Placement.holds, Bool.and_eq_true, decide_eq_true_eq] at h
  simp only [windowSize] at halign h ⊢
  omega

/-- The windows of well-placed instances at different bases have no address in common. -/
theorem not_holds_of_base_ne (hb : b.base % windowSize = 0) (hb' : b'.base % windowSize = 0)
    (hne : b.base ≠ b'.base) (h : b.holds addr = true) : b'.holds addr = false := by
  by_contra h'
  rw [Bool.not_eq_false] at h'
  exact hne ((base_eq_of_holds hb h).trans (base_eq_of_holds hb' h').symm)

theorem wf_tail (hwf : Platform.wf (b :: rest)) : Platform.wf rest :=
  ⟨fun x hx => hwf.1 x (List.mem_cons_of_mem _ hx), hwf.2.of_cons⟩

/-- Where the first instance's window holds the address, no later one's does. -/
theorem not_holds_of_mem_tail (hwf : Platform.wf (b :: rest)) (h : b.holds addr = true) {x : Placement}
    (hx : x ∈ rest) : x.holds addr = false :=
  not_holds_of_base_ne (hwf.1 b List.mem_cons_self) (hwf.1 x (List.mem_cons_of_mem _ hx))
    (List.rel_of_pairwise_cons hwf.2 hx) h

/-! ### An access, by the first instance's window -/

theorem access_next_of_holds (h : b.holds addr = true)
    (ha : Platform.access (b :: rest) addr event = .next q) :
    ∃ s, b.block.perform (event (addr - b.base)) = .next s ∧ q = { b with block := s } :: rest := by
  rw [Platform.access, if_pos h] at ha
  cases hs : b.block.perform (event (addr - b.base)) with
  | next s =>
    rw [hs] at ha
    exact ⟨s, rfl, (Host.Outcome.next.inj ha).symm⟩
  | fault | refused => simp [hs] at ha

theorem access_next_of_not_holds (h : b.holds addr = false)
    (ha : Platform.access (b :: rest) addr event = .next q) :
    ∃ rest', Platform.access rest addr event = .next rest' ∧ q = b :: rest' := by
  rw [Platform.access, if_neg (by simp [h])] at ha
  cases hr : Platform.access rest addr event with
  | next rest' =>
    rw [hr] at ha
    exact ⟨rest', rfl, (Host.Outcome.next.inj ha).symm⟩
  | fault | refused => simp [hr] at ha

/-! ### What an access makes of each instance (R191) -/

/-- From `b` to `b'` an instance has taken the access if its window holds the address, and is as it was
if not. -/
def TakesAccess (addr : Nat) (event : Nat → BusEvent) (b b' : Placement) : Prop :=
  b'.base = b.base ∧ (b.holds addr = false → b' = b) ∧
    (b.holds addr = true → b.block.perform (event (addr - b.base)) = .next b'.block)

theorem takesAccess_of_holds {s : State} (h : b.holds addr = true)
    (hs : b.block.perform (event (addr - b.base)) = .next s) :
    TakesAccess addr event b { b with block := s } :=
  ⟨rfl, fun h' => absurd (h.symm.trans h') (by decide), fun _ => hs⟩

theorem takesAccess_self (h : b.holds addr = false) : TakesAccess addr event b b :=
  ⟨rfl, fun _ => rfl, fun h' => absurd (h.symm.trans h') (by decide)⟩

/-- Instance by instance: the one that holds the address takes the access, and the windows of the
instances after it do not hold the address. -/
theorem access_takesAccess {p : Platform} (hwf : Platform.wf p)
    (ha : Platform.access p addr event = .next q) : List.Forall₂ (TakesAccess addr event) p q := by
  induction p generalizing q with
  | nil => simp [Platform.access] at ha
  | cons b rest ih =>
    cases hb : b.holds addr with
    | true =>
      obtain ⟨s, hs, rfl⟩ := access_next_of_holds hb ha
      exact .cons (takesAccess_of_holds hb hs)
        (List.forall₂_same.2 fun x hx => takesAccess_self (not_holds_of_mem_tail hwf hb hx))
    | false =>
      obtain ⟨rest', hrest, rfl⟩ := access_next_of_not_holds hb ha
      exact .cons (takesAccess_self hb) (ih (wf_tail hwf) hrest)

end Sys2Proof.Machine

open Sys2Proof Sys2Proof.Machine

/-- Settles O59, by induction on the platform's instances. -/
theorem instancesAreIndependent : Obligations.InstancesAreIndependent := fun _ _ _ _ hwf ha =>
  access_takesAccess hwf ha
end

section
/-! PROOF. The block's invariants (R200; O52): what they ask of STATUS, of OUTBUF's memory and of each unit,
said unit by unit, so that an operation keeps them by what it changes; at reset they hold. -/

namespace Sys2Proof.Machine

variable {s : State}

/-! ### The invariants, part by part -/

/-- CTRL of an oscillator: MODE 3 is never stored, and the reserved bits are 0 (R46). -/
def OscCtrlValid (ctrl : Word) : Prop := ctrl.extractLsb' 2 2 ≠ 3 ∧ ctrl.extractLsb' 6 26 = 0

/-- One oscillator at a sample rate: PINC follows FREQ (R44), CTRL (R46) and the range of OUT (R109). -/
def Osc.Valid (rate : Word) (o : Osc) : Prop :=
  o.pinc.toNat = o.freq.toNat * 2 ^ 16 / rate.toNat % 2 ^ 32 ∧ OscCtrlValid o.ctrl ∧ OutInRange o.out

/-- One channel: its TAP_SRCs (R53), and the reserved bits of CTRL (R52). -/
def Channel.Valid (c : Channel) : Prop :=
  (∀ t : Fin 4, c.tapSrc[t].toNat < Config.nosc ∨ c.tapSrc[t] = 0xFF) ∧ c.ctrl.extractLsb' 4 28 = 0

/-- One interpolator: SRC (R60), DEST (R61) and the reserved bits of CTRL (R59). -/
def Interp.Valid (i : Interp) : Prop :=
  i.src.toNat < Config.nosc ∧ destLegal i.dest = true ∧ i.ctrl.extractLsb' 1 31 = 0

/-- STATUS and the error record: reserved bits (R31), no record without ERR (R200), and the codes of R179. -/
def RecordValid (status info arg : Word) : Prop :=
  (status.extractLsb' 1 3 = 0 ∧ status.extractLsb' 10 22 = 0) ∧
  (status.getLsbD 0 = false → status.extractLsb' 4 4 = 0 ∧ info = 0 ∧ arg = 0) ∧
  (status.getLsbD 0 = true → 1 ≤ (status.extractLsb' 4 4).toNat ∧ (status.extractLsb' 4 4).toNat ≤ 5)

/-- SAMPLE_RATE (R35), MAX_BLOCK (R36) and RAMP_LEN (R39). -/
def State.TimingValid (s : State) : Prop :=
  s.sampleRate.toNat ≠ 0 ∧ (1 ≤ s.maxBlock.toNat ∧ s.maxBlock.toNat ≤ Config.outbufCap) ∧
  s.rampLen.toNat = min (s.rampTime.toNat * s.sampleRate.toNat / 1000) (2 ^ 32 - 1)

/-- OUTBUF's memory: rising offsets, all of OUTBUF (log entry 7). -/
def OutbufValid (m : Memory) : Prop :=
  Memory.wf m ∧ ∀ e ∈ m, 0x8000 ≤ e.1 ∧ e.1 < 0x8000 + 8 * Config.outbufCap

/-- The invariants by their parts. A change of registers that no part speaks of is seen to keep them by
unfolding. -/
def State.Valid (s : State) : Prop :=
  s.TimingValid ∧ RecordValid s.status s.errInfo s.errArg ∧ OutbufValid s.outbuf ∧
  (∀ n : Fin Config.nosc, s.osc[n].Valid s.sampleRate) ∧ (∀ c : Fin Config.nch, s.ch[c].Valid) ∧
  ∀ k : Fin Config.nip, s.ip[k].Valid

theorem inv_iff : Inv s ↔ s.Valid := by
  constructor
  · intro h
    exact ⟨⟨h.rate, h.maxBlock, h.rampLen⟩, ⟨h.statusReserved, h.noError, h.codes⟩, h.outbuf,
      fun n => ⟨h.pinc n, ⟨h.mode n, h.oscReserved n⟩, h.outRange n⟩,
      fun c => ⟨h.taps c, h.chReserved c⟩, fun k => ⟨h.src k, h.dest k, h.ipReserved k⟩⟩
  · rintro ⟨⟨hrate, hmax, hlen⟩, ⟨hreserved, hnone, hcodes⟩, hbuf, hosc, hch, hip⟩
    simp only [Osc.Valid, OscCtrlValid, Channel.Valid, Interp.Valid, forall_and] at hosc hch hip
    obtain ⟨hpinc, ⟨hmode, hoscCtrl⟩, hout⟩ := hosc
    obtain ⟨htaps, hchCtrl⟩ := hch
    obtain ⟨hsrc, hdest, hipCtrl⟩ := hip
    exact ⟨hrate, hmax, hpinc, hlen, hmode, htaps, hsrc, hdest, hoscCtrl, hchCtrl, hipCtrl, hreserved, hnone,
      hcodes, hout, hbuf⟩

theorem State.Valid.record (h : s.Valid) : RecordValid s.status s.errInfo s.errArg := h.2.1

theorem State.Valid.outbuf (h : s.Valid) : OutbufValid s.outbuf := h.2.2.1

theorem Osc.Valid.ctrl {o : Osc} {rate : Word} (h : o.Valid rate) : OscCtrlValid o.ctrl := h.2.1

/-! ### A change of one unit, of the record or of OUTBUF -/

theorem valid_modifyOsc (h : s.Valid) (n : Fin Config.nosc) {f : Osc → Osc}
    (hf : s.osc[n].Valid s.sampleRate → (f s.osc[n]).Valid s.sampleRate) : (s.modifyOsc n f).Valid := by
  obtain ⟨htiming, hrecord, hbuf, hosc, hch, hip⟩ := h
  refine ⟨htiming, hrecord, hbuf, fun m => ?_, hch, hip⟩
  rw [modifyOsc_sampleRate]
  by_cases hm : m = n
  · rw [hm, modifyOsc_osc_same]
    exact hf (hosc n)
  · rw [modifyOsc_osc_other s f hm]
    exact hosc m

theorem valid_modifyCh (h : s.Valid) (c : Fin Config.nch) {f : Channel → Channel}
    (hf : s.ch[c].Valid → (f s.ch[c]).Valid) : (s.modifyCh c f).Valid := by
  obtain ⟨htiming, hrecord, hbuf, hosc, hch, hip⟩ := h
  refine ⟨htiming, hrecord, hbuf, hosc, fun d => ?_, hip⟩
  by_cases hd : d = c
  · rw [hd, modifyCh_ch_same]
    exact hf (hch c)
  · rw [modifyCh_ch_other s f hd]
    exact hch d

theorem valid_modifyIp (h : s.Valid) (k : Fin Config.nip) {f : Interp → Interp}
    (hf : s.ip[k].Valid → (f s.ip[k]).Valid) : (s.modifyIp k f).Valid := by
  obtain ⟨htiming, hrecord, hbuf, hosc, hch, hip⟩ := h
  refine ⟨htiming, hrecord, hbuf, hosc, hch, fun j => ?_⟩
  by_cases hj : j = k
  · rw [hj, modifyIp_ip_same]
    exact hf (hip k)
  · rw [modifyIp_ip_other s f hj]
    exact hip j

theorem valid_withRecord (h : s.Valid) {status info arg : Word} (hrecord : RecordValid status info arg) :
    State.Valid { s with status := status, errInfo := info, errArg := arg } := by
  obtain ⟨htiming, -, hrest⟩ := h
  exact ⟨htiming, hrecord, hrest⟩

theorem valid_withOutbuf (h : s.Valid) {m : Memory} (hm : OutbufValid m) :
    State.Valid { s with outbuf := m } := by
  obtain ⟨htiming, hrecord, -, hunits⟩ := h
  exact ⟨htiming, hrecord, hm, hunits⟩

/-! ### STATUS and the record (R31, R179, R181) -/

variable {status status' info arg : Word}

/-- A field of the bits that a mask keeps. -/
theorem extractLsb'_and_of_ones (w : Word) {mask : Word} {lo len : Nat}
    (hmask : mask.extractLsb' lo len = BitVec.allOnes len) :
    (w &&& mask).extractLsb' lo len = w.extractLsb' lo len := by
  rw [BitVec.extractLsb'_and, hmask, BitVec.and_allOnes]

/-- A field of the bits that a mask clears. -/
theorem extractLsb'_and_of_zero (w : Word) {mask : Word} {lo len : Nat}
    (hmask : mask.extractLsb' lo len = 0) : (w &&& mask).extractLsb' lo len = 0 := by
  rw [BitVec.extractLsb'_and, hmask]; exact BitVec.and_zero

/-- The record stands in the bits of STATUS that are neither RANGE nor SAT. -/
theorem recordValid_masked : RecordValid (status &&& 0xFFFFFCFF) info arg ↔ RecordValid status info arg := by
  have herr : (status &&& 0xFFFFFCFF).getLsbD 0 = status.getLsbD 0 := by simp
  rw [RecordValid, RecordValid, herr, extractLsb'_and_of_ones status (lo := 1) (len := 3) rfl,
    extractLsb'_and_of_ones status (lo := 10) (len := 22) rfl,
    extractLsb'_and_of_ones status (lo := 4) (len := 4) rfl]

theorem recordValid_congr (h : RecordValid status info arg)
    (hst : status' &&& 0xFFFFFCFF = status &&& 0xFFFFFCFF) : RecordValid status' info arg := by
  rw [← recordValid_masked, hst]
  exact recordValid_masked.2 h

/-- A first failure writes ERR and one of the codes (R179, R181). -/
theorem recordValid_failed (h : RecordValid status info arg) (e : CmdErr) (info' arg' : Word) :
    RecordValid (failedStatus status e) info' arg' := by
  obtain ⟨⟨hlow, hhigh⟩, -, -⟩ := h
  have kept {lo len : Nat} (hlo : 1 ≤ lo) (hfield : lo + len ≤ 4 ∨ 8 ≤ lo) :
      (failedStatus status e).extractLsb' lo len = status.extractLsb' lo len := by
    rw [failedStatus, extractLsb'_setBits_disjoint _ _ _ _ _ hfield,
      extractLsb'_setBits_disjoint _ _ _ _ _ (.inr hlo)]
  refine ⟨⟨(kept (by decide) (by decide)).trans hlow, (kept (by decide) (by decide)).trans hhigh⟩,
    fun herr => ?_, fun _ => ?_⟩
  · rw [failedStatus_getLsbD_zero] at herr
    exact absurd herr (by decide)
  · rw [failedStatus_errCode]
    cases e <;> decide

/-- CLEAR_STATUS with bit 0 of its mask clears ERR and ERRCODE, whatever else of STATUS it keeps (R177). -/
theorem recordValid_cleared (h : RecordValid status info arg) (kept : Word) :
    RecordValid (status &&& (0xFFFFFF0E &&& kept)) 0 0 := by
  obtain ⟨⟨hlow, hhigh⟩, -, -⟩ := h
  have herr : (status &&& (0xFFFFFF0E &&& kept)).getLsbD 0 = false := by simp
  have reserved {lo len : Nat} (hfield : status.extractLsb' lo len = 0) :
      (status &&& (0xFFFFFF0E &&& kept)).extractLsb' lo len = 0 := by
    rw [BitVec.extractLsb'_and, hfield]; exact BitVec.zero_and
  refine ⟨⟨reserved hlow, reserved hhigh⟩, fun _ => ⟨?_, rfl, rfl⟩, fun h1 => ?_⟩
  · rw [← BitVec.and_assoc, BitVec.extractLsb'_and, extractLsb'_and_of_zero status rfl]
    exact BitVec.zero_and
  · rw [herr] at h1
    exact absurd h1 (by decide)

theorem valid_noteRange (h : s.Valid) (b : Bool) : (s.noteRange b).Valid := by
  rw [noteRange_flagged]
  exact valid_withRecord h (recordValid_congr h.record (flagged_and_of_disjoint _ (by decide) b))

theorem valid_noteSat (h : s.Valid) (b : Bool) : (s.noteSat b).Valid := by
  rw [noteSat_flagged]
  exact valid_withRecord h (recordValid_congr h.record (flagged_and_of_disjoint _ (by decide) b))

theorem valid_cmdError (h : s.Valid) (e : CmdErr) (w : Word) : (s.cmdError e w).Valid := by
  rcases cmdError_cases s e w with ⟨-, he⟩ | ⟨-, he⟩ <;> rw [he]
  · exact h
  · exact valid_withRecord h (recordValid_failed h.record e _ _)

/-- CLEAR_STATUS, by bit 0 of its mask: the record goes, or RANGE and SAT alone change (R177). -/
theorem valid_clearStatus (h : s.Valid) (mask : Word) : (s.clearStatus mask).Valid := by
  rw [clearStatus_eq]
  refine valid_withRecord h ?_
  by_cases h0 : mask.getLsbD 0 = true
  · simp only [if_pos h0, BitVec.not_or, BitVec.and_assoc]
    exact recordValid_cleared h.record _
  · simp only [if_neg h0]
    refine recordValid_congr h.record ?_
    rw [BitVec.and_assoc]
    split_ifs <;> rfl

/-! ### Oscillators -/

/-- A firing moves PHASE and evaluates OUT (R103). -/
theorem osc_fired_valid {o : Osc} {rate : Word} (h : o.Valid rate) : o.fired.Valid rate := by
  obtain ⟨hpinc, hctrl, -⟩ := h
  have hout := osc_fired_outInRange o
  rw [osc_fired_eq] at hout ⊢
  exact ⟨hpinc, hctrl, hout⟩

theorem osc_evaluate_valid {o : Osc} {rate : Word} (h : o.Valid rate) : o.evaluate.Valid rate := by
  obtain ⟨hpinc, hctrl, -⟩ := h
  exact ⟨hpinc, hctrl, osc_evaluate_outInRange o⟩

/-- Whatever the rate and FREQ were before, a recomputation makes PINC follow them (R100). -/
theorem osc_tuned_valid {o : Osc} {rate : Word} (h : o.Valid rate) (freq rate' : Word) :
    (Osc.tuned { o with freq := freq } rate').Valid rate' := by
  obtain ⟨-, hctrl, hout⟩ := h
  refine ⟨?_, hctrl, hout⟩
  rw [Osc.tuned, mod32_natCast]
  exact BitVec.toNat_ofNat _ _

theorem osc_withCtrl_valid {o : Osc} {rate ctrl : Word} (h : o.Valid rate) (hctrl : OscCtrlValid ctrl) :
    Osc.Valid rate { o with ctrl := ctrl } := by
  obtain ⟨hpinc, -, hout⟩ := h
  exact ⟨hpinc, hctrl, hout⟩

/-- A field of CTRL apart from MODE and the reserved bits (R46). -/
theorem oscCtrlValid_setBits {ctrl : Word} (h : OscCtrlValid ctrl) {lo len : Nat} (v : BitVec len)
    (hmode : lo + len ≤ 2 ∨ 4 ≤ lo) (hfit : lo + len ≤ 6) : OscCtrlValid (setBits ctrl lo v) := by
  rw [OscCtrlValid, extractLsb'_setBits_disjoint _ _ _ _ _ (by omega),
    extractLsb'_setBits_disjoint _ _ _ _ _ (by omega)]
  exact h

theorem oscCtrlValid_setMode {ctrl : Word} (h : OscCtrlValid ctrl) {v : BitVec 2} (hv : v ≠ 3) :
    OscCtrlValid (setBits ctrl 2 v) := by
  rw [OscCtrlValid, extractLsb'_setBits_same _ _ _ (by decide),
    extractLsb'_setBits_disjoint _ _ _ _ _ (by decide)]
  exact ⟨hv, h.2⟩

theorem valid_fire (h : s.Valid) (n : Fin Config.nosc) : (s.fire n).Valid := by
  rw [fire_eq_noteRange]
  exact valid_noteRange (valid_modifyOsc h n osc_fired_valid) _

theorem valid_fireIf (h : s.Valid) (mode : BitVec 2) (n : Fin Config.nosc) : (s.fireIf mode n).Valid := by
  rcases fireIf_cases s mode n with ⟨-, -, e⟩ | ⟨-, e⟩ <;> rw [e]
  · exact valid_fire h n
  · exact h

/-- An advance moves PHASE alone (R101). -/
theorem valid_advance (h : s.Valid) (n : Fin Config.nosc) : (s.advance n).Valid :=
  valid_noteRange (valid_modifyOsc h n id) _

theorem valid_evaluate (h : s.Valid) (n : Fin Config.nosc) : (s.evaluate n).Valid :=
  valid_modifyOsc h n osc_evaluate_valid

theorem valid_writeOscFreq (h : s.Valid) (n : Fin Config.nosc) (a : Word) : (s.writeOscFreq n a).Valid := by
  rw [writeOscFreq_eq]
  exact valid_noteRange (valid_modifyOsc h n fun ho => osc_tuned_valid ho a s.sampleRate) _

/-! ### Interpolators and channels -/

theorem valid_drawSource (h : s.Valid) (src : Word) : (s.drawSource src).Valid := by
  rcases drawSource_cases s src with e | ⟨hn, -, -, e⟩ <;> rw [e]
  · exact h
  · exact valid_fire h _

/-- No invariant speaks of a register that a destination names (R145). -/
theorem valid_writeDest (h : s.Valid) (d a : Word) : (s.writeDest d a).Valid := by
  rcases writeDest_cases s d a with e | ⟨n, f, e, hf⟩ | ⟨c, f, e, hf⟩ | ⟨k, f, e, hf⟩ <;> rw [e]
  · exact h
  · refine valid_modifyOsc h n ?_
    rcases hf with rfl | rfl | rfl <;> exact id
  · refine valid_modifyCh h c ?_
    rcases hf with ⟨_, rfl⟩ | rfl | rfl | rfl | rfl | rfl | rfl | rfl | rfl | rfl | rfl | rfl <;> exact id
  · refine valid_modifyIp h k ?_
    rcases hf with rfl | rfl <;> exact id

theorem valid_storeMapped (h : s.Valid) (k : Fin Config.nip) (src : Word) : (s.storeMapped k src).Valid :=
  valid_noteSat (valid_modifyIp h k id) _

theorem valid_runInterpIf (h : s.Valid) (k : Fin Config.nip) : (s.runInterpIf k).Valid := by
  rcases runInterpIf_cases s k with ⟨-, e⟩ | ⟨-, e⟩ <;> rw [e]
  · have stored := valid_storeMapped (valid_drawSource h s.ip[k].src) k s.ip[k].src
    rcases applyInterp_cases (s.drawSource s.ip[k].src) k s.ip[k].src with ⟨-, e⟩ | ⟨-, e⟩ <;> rw [e]
    · exact stored
    · exact valid_writeDest stored _ _
  · exact h

/-- A frame of a channel writes its history and OUT (R125, R127). -/
theorem channel_store_valid {c : Channel} (f : ChannelFrame) (h : c.Valid) : (c.store f).Valid := by
  rw [channel_store_eq]
  exact h

theorem valid_runChannelIf (h : s.Valid) (c : Fin Config.nch) : (s.runChannelIf c).Valid := by
  rcases runChannelIf_cases s c with ⟨-, e⟩ | ⟨-, e⟩ <;> rw [e]
  · have stored := valid_modifyCh h c (f := fun ch => ch.store (s.ch[c].compute s.oscOut))
      (channel_store_valid _)
    exact valid_noteSat stored _
  · exact h

/-! ### The frame and the block -/

theorem valid_inputsReady (h : s.Valid) : s.inputsReady.Valid := by
  unfold State.inputsReady State.stageOscs State.stageInterps State.stageLfos
  have hlfos := forUnits_keeps State.Valid (fun n _ hu => valid_fireIf hu modeLfoOnce n) h
  have hinterps := forUnits_keeps State.Valid (fun k _ hu => valid_runInterpIf hu k) hlfos
  exact forUnits_keeps State.Valid (fun n _ hu => valid_fireIf hu modeAudio n) hinterps

theorem valid_stageChannels (h : s.Valid) : s.stageChannels.Valid :=
  forUnits_keeps State.Valid (fun c _ hu => valid_runChannelIf hu c) h

theorem valid_advanceRamp (h : s.Valid) : s.advanceRamp.Valid := by
  rcases advanceRamp_cases s with ⟨-, e⟩ | ⟨-, e⟩ | ⟨-, e⟩ <;> rw [e] <;> exact h

theorem writeFrame_outbufValid (h : OutbufValid s.outbuf) (i : Nat) (l r : Word) :
    OutbufValid (s.writeFrame i l r).outbuf :=
  ⟨writeFrame_outbuf_wf s i l r h.1, fun e he => (mem_writeFrame_outbuf s he).elim id (h.2 e)⟩

/-- OUTBUF is all that a frame's write changes (R170). -/
theorem writeFrame_eq_withOutbuf (s : State) (i : Nat) (l r : Word) :
    s.writeFrame i l r = { s with outbuf := (s.writeFrame i l r).outbuf } := by
  unfold State.writeFrame; split <;> rfl

theorem valid_writeFrame (h : s.Valid) (i : Nat) (l r : Word) : (s.writeFrame i l r).Valid := by
  rw [writeFrame_eq_withOutbuf]
  exact valid_withOutbuf h (writeFrame_outbufValid h.outbuf i l r)

theorem valid_emitFrame (h : s.Valid) (i : Nat) (l r : Word) : (s.emitFrame i l r).Valid :=
  valid_writeFrame h i l r

theorem valid_stageOutput (h : s.Valid) (i : Nat) : (s.stageOutput i).Valid :=
  valid_emitFrame (valid_noteSat (valid_advanceRamp h) _) i _ _

theorem valid_renderFrame (h : s.Valid) (i : Nat) : (s.renderFrame i).Valid :=
  valid_stageOutput (valid_stageChannels (valid_inputsReady h)) i

theorem valid_renderBlock (h : s.Valid) (n : Nat) : (s.renderBlock n).Valid :=
  renderFrom_keeps s State.Valid (fun _ i hu => valid_renderFrame hu i) 0 n h

/-! ### The rate, the ramp's length and reset -/

/-- RAMP_LEN's word holds R39's value: the cap keeps it below `2^32`. -/
theorem rampLength_toNat (time rate : Word) :
    (rampLength time rate).toNat = min (time.toNat * rate.toNat / 1000) (2 ^ 32 - 1) :=
  Nat.mod_eq_of_lt (by simp only [floorDiv]; omega)

theorem valid_writeRampTime (h : s.Valid) (time : Word) : (s.writeRampTime time).Valid := by
  obtain ⟨⟨hrate, hmax, -⟩, hrest⟩ := h
  exact ⟨⟨hrate, hmax, rampLength_toNat _ _⟩, hrest⟩

theorem valid_startRamp (h : s.Valid) (target : Word) : (s.startRamp target).Valid := by
  rw [startRamp_eq]; exact h

/-- A new rate comes with every PINC and RAMP_LEN computed from it (R173). -/
theorem valid_writeSampleRate (h : s.Valid) {rate : Word} (hrate : rate.toNat ≠ 0) :
    (s.writeSampleRate rate).Valid := by
  obtain ⟨⟨-, hmax, -⟩, hrecord, hbuf, hosc, hch, hip⟩ := h
  obtain ⟨osc, htuned, e⟩ := exists_writeSampleRate_eq s rate
  rw [e]
  refine ⟨⟨hrate, hmax, rampLength_toNat _ _⟩,
    recordValid_congr hrecord (flagged_and_of_disjoint _ (by decide) _), hbuf, fun n => ?_, hch, hip⟩
  exact (htuned n).symm ▸ osc_tuned_valid (hosc n) s.osc[n].freq rate

theorem valid_withMaxBlock (h : s.Valid) {frames : Word} (hlegal : maxBlockLegal frames = true) :
    State.Valid { s with maxBlock := frames } := by
  obtain ⟨⟨hrate, -, hlen⟩, hrest⟩ := h
  rw [maxBlockLegal, Bool.and_eq_true, decide_eq_true_iff, decide_eq_true_iff] at hlegal
  exact ⟨⟨hrate, hlegal, hlen⟩, hrest⟩

theorem osc_reset_valid : Osc.reset.Valid 44100 := ⟨rfl, ⟨by decide, rfl⟩, by decide, by decide⟩

theorem channel_reset_valid : Channel.reset.Valid := ⟨by decide, rfl⟩

theorem interp_reset_valid : Interp.reset.Valid := ⟨by decide, rfl, rfl⟩

theorem reset_osc (n : Fin Config.nosc) : State.reset.osc[n] = Osc.reset := Vector.getElem_replicate _

theorem reset_ch (c : Fin Config.nch) : State.reset.ch[c] = Channel.reset := Vector.getElem_replicate _

theorem reset_ip (k : Fin Config.nip) : State.reset.ip[k] = Interp.reset := Vector.getElem_replicate _

/-- Every register at its reset value, and nothing written to OUTBUF (R195, R197). -/
theorem valid_reset : State.reset.Valid := by
  refine ⟨⟨by decide, by decide, rfl⟩, ⟨⟨rfl, rfl⟩, fun _ => ⟨rfl, rfl, rfl⟩, fun h => nomatch h⟩,
    ⟨List.Pairwise.nil, fun _ he => nomatch he⟩, fun n => ?_, fun c => ?_, fun k => ?_⟩
  · rw [reset_osc]; exact osc_reset_valid
  · rw [reset_ch]; exact channel_reset_valid
  · rw [reset_ip]; exact interp_reset_valid

theorem valid_hardReset (s : State) : s.hardReset.Valid := valid_reset

/-- RESET keeps OUTBUF (R196). -/
theorem valid_resetCommand (h : s.Valid) : s.resetCommand.Valid := valid_withOutbuf valid_reset h.outbuf

/-! ### The units' CTRL and routing, under the checks of R88 -/

theorem oscMode_of_modeLegal {a : Word} (h : modeLegal a = true) : a.extractLsb' 0 2 ≠ 3 := by
  rw [modeLegal, Bool.and_eq_true, bne_iff_ne] at h
  exact h.2

theorem valid_writeOscMode (h : s.Valid) (n : Fin Config.nosc) {a : Word} (ha : modeLegal a = true) :
    (s.writeOscMode n a).Valid :=
  valid_modifyOsc h n fun ho => osc_withCtrl_valid ho <|
    oscCtrlValid_setBits (oscCtrlValid_setMode ho.ctrl (oscMode_of_modeLegal ha)) _ (.inr (by decide))
      (by decide)

/-- A field of an oscillator's CTRL apart from MODE and the reserved bits. -/
theorem valid_writeOscCtrl (h : s.Valid) (n : Fin Config.nosc) {lo len : Nat} (v : BitVec len)
    (hmode : lo + len ≤ 2 ∨ 4 ≤ lo) (hfit : lo + len ≤ 6) :
    (s.modifyOsc n fun o => { o with ctrl := setBits o.ctrl lo v }).Valid :=
  valid_modifyOsc h n fun ho => osc_withCtrl_valid ho (oscCtrlValid_setBits ho.ctrl v hmode hfit)

/-- A field of a channel's CTRL below the reserved bits. -/
theorem valid_writeChCtrl (h : s.Valid) (c : Fin Config.nch) {lo len : Nat} (v : BitVec len)
    (hfit : lo + len ≤ 4) : (s.modifyCh c fun ch => { ch with ctrl := setBits ch.ctrl lo v }).Valid :=
  valid_modifyCh h c fun ⟨htaps, hctrl⟩ =>
    ⟨htaps, (extractLsb'_setBits_disjoint _ _ _ _ _ (.inr hfit)).trans hctrl⟩

theorem valid_writeChTapSrc (h : s.Valid) (c : Fin Config.nch) (t : Fin 4) {a : Word}
    (ha : tapSrcLegal a = true) : (s.writeChTapSrc c t a).Valid := by
  have hlegal : a.toNat < Config.nosc ∨ a = 0xFF := by
    rw [tapSrcLegal, Bool.or_eq_true, decide_eq_true_iff, beq_iff_eq] at ha
    exact ha.imp_right fun e => BitVec.eq_of_toNat_eq e
  refine valid_modifyCh h c fun ⟨htaps, hctrl⟩ => ⟨fun u => ?_, hctrl⟩
  by_cases hu : u = t
  · subst hu
    simpa using hlegal
  · have hne : t.val ≠ u.val := fun e => hu (Fin.ext e.symm)
    simpa [Vector.getElem_set_ne _ _ hne] using htaps u

theorem valid_writeChCoef (h : s.Valid) (c : Fin Config.nch) (k : Fin 5) (a : Word) :
    (s.writeChCoef c k a).Valid :=
  valid_modifyCh h c fun hc => by split <;> exact hc

theorem valid_writeIpEnable (h : s.Valid) (k : Fin Config.nip) (a : Word) : (s.writeIpEnable k a).Valid :=
  valid_modifyIp h k fun ⟨hsrc, hdest, hctrl⟩ =>
    ⟨hsrc, hdest, (extractLsb'_setBits_disjoint _ _ _ _ _ (.inr (by decide))).trans hctrl⟩

theorem valid_writeIpSrc (h : s.Valid) (k : Fin Config.nip) {a : Word} (ha : srcLegal a = true) :
    (s.writeIpSrc k a).Valid :=
  valid_modifyIp h k fun ⟨_, hrest⟩ => ⟨of_decide_eq_true ha, hrest⟩

theorem valid_writeIpDest (h : s.Valid) (k : Fin Config.nip) {a : Word} (ha : destLegal a = true) :
    (s.writeIpDest k a).Valid :=
  valid_modifyIp h k fun ⟨hsrc, _, hctrl⟩ => ⟨hsrc, ha, hctrl⟩

/-! ### Every command -/

/-- Where ARG is checked, the command's own next state has a legal ARG to lean on. -/
theorem withArg_leaves_of_legal {legal : Bool} {h : Word} {done : State} {P : State → Prop}
    (hdone : legal = true → P done) (hfail : ∀ e, P (s.cmdError e h)) :
    Leaves (withArg legal h s done) P := fun t ht => by
  rcases withArg_cases s ht with ⟨hlegal, rfl⟩ | ⟨-, rfl⟩
  · exact hdone hlegal
  · exact hfail _

/-- The commands by what they write: registers that no invariant speaks of, or one that the checks of R86 or
its own computation keep within them. -/
theorem exec_valid (i : Instr) (h : s.Valid) : Leaves (exec i s) State.Valid := by
  have hfail (e : CmdErr) := valid_cmdError h e (encode i)
  cases i with
  | nop => exact leaves_next h
  | setSampleRate =>
    exact withArg_leaves_of_legal (fun ha => valid_writeSampleRate h (of_decide_eq_true ha)) hfail
  | setMaxBlock => exact withArg_leaves_of_legal (fun ha => valid_withMaxBlock h ha) hfail
  | render => exact withArg_leaves (valid_renderBlock h _) hfail
  | reset => exact leaves_next (valid_resetCommand h)
  | clearStatus => exact withArg_leaves (valid_clearStatus h _) hfail
  | rampSetTarget => exact leaves_next (valid_startRamp h _)
  | rampSetTime => exact leaves_next (valid_writeRampTime h _)
  | rampSetValue => exact leaves_next h
  | oscSetFreq unit => exact withUnit_leaves (fun n _ => leaves_next (valid_writeOscFreq h n _)) hfail
  | oscSetPw unit | oscSetFmul unit | oscSetPoff unit | oscSetPhase unit =>
    exact withUnit_leaves (fun n _ => leaves_next (valid_modifyOsc h n id)) hfail
  | oscSetWave unit =>
    exact withUnit_leaves
      (fun n _ => withArg_leaves (valid_writeOscCtrl h n _ (.inl (by decide)) (by decide)) hfail) hfail
  | oscEnable unit =>
    exact withUnit_leaves
      (fun n _ => withArg_leaves (valid_writeOscCtrl h n _ (.inr (by decide)) (by decide)) hfail) hfail
  | oscSetMode unit =>
    exact withUnit_leaves (fun n _ => withArg_leaves_of_legal (valid_writeOscMode h n) hfail) hfail
  | oscStep unit => exact withUnit_leaves (fun n _ => leaves_next (valid_advance h n)) hfail
  | oscTick unit =>
    exact withUnit_leaves (fun n _ => leaves_next (valid_evaluate (valid_advance h n) n)) hfail
  | chSetOffset unit | chSetClip unit | chSetDry unit | chSetWet unit | chSetGain unit | chSetPan unit
  | chClearHist unit =>
    exact withUnit_leaves (fun c _ => leaves_next (valid_modifyCh h c id)) hfail
  | chEnable unit | chSetFlags unit =>
    exact withUnit_leaves (fun c _ => withArg_leaves (valid_writeChCtrl h c _ (by decide)) hfail) hfail
  | chSetTapSrc unit sub =>
    dsimp only [exec, execChSetTapSrc]
    refine withUnit_leaves (fun c _ => withSub_leaves (fun t => ?_) hfail) hfail
    exact withArg_leaves_of_legal (valid_writeChTapSrc h c t) hfail
  | chSetTapGain unit sub =>
    dsimp only [exec, execChSetTapGain]
    refine withUnit_leaves (fun c _ => withSub_leaves (fun t => ?_) hfail) hfail
    exact leaves_next (valid_modifyCh h c id)
  | chSetCoef unit sub =>
    dsimp only [exec, execChSetCoef]
    refine withUnit_leaves (fun c _ => withSub_leaves (fun k => ?_) hfail) hfail
    exact leaves_next (valid_writeChCoef h c k _)
  | ipEnable unit =>
    exact withUnit_leaves (fun k _ => withArg_leaves (valid_writeIpEnable h k _) hfail) hfail
  | ipSetSrc unit =>
    exact withUnit_leaves (fun k _ => withArg_leaves_of_legal (valid_writeIpSrc h k) hfail) hfail
  | ipSetDest unit =>
    exact withUnit_leaves (fun k _ => withArg_leaves_of_legal (valid_writeIpDest h k) hfail) hfail
  | ipSetMin unit | ipSetMax unit =>
    exact withUnit_leaves (fun k _ => leaves_next (valid_modifyIp h k id)) hfail

end Sys2Proof.Machine

open Sys2Proof Sys2Proof.Machine

/-- Settles O52: every command, a failing one and a reset keep each part of the invariants, and the bus
alone touches none. -/
theorem stepKeepsInvariants : Obligations.StepKeepsInvariants := fun _ t hs ht =>
  inv_iff.2 <| step_keeps (fun i _ h => exec_valid i h) (fun _ e w h => valid_cmdError h e w)
    (fun _ _ _ _ _ h => h) (fun s _ => valid_hardReset s) (inv_iff.1 hs) t ht
end

section
/-! PROOF. Reset (R195 to R198): the registers' reset values (O16), the state after a hardware reset (O17), and
that it has the invariants (O53); and the silence of RENDER until a ramp is set (O19). -/

namespace Sys2Proof.Machine

variable {s : State}

/-! ### The hardware reset (R195, R197) -/

/-- Every register reads its reset value. -/
theorem hardReset_readWord (s : State) {a : Nat} (ha : a < 0x8000) :
    s.hardReset.readWord a = State.reset.readWord a := by
  rcases readWord_cases a with h | ⟨n, k, h, rfl⟩ | ⟨c, k, h, rfl⟩ | ⟨i, k, h, rfl⟩ | h | h
  · rw [readWord_global _ h, readWord_global _ h]; rfl
  · rw [readWord_osc _ n h, readWord_osc _ n h]; rfl
  · rw [readWord_ch _ c h, readWord_ch _ c h]; rfl
  · rw [readWord_ip _ i h, readWord_ip _ i h]; rfl
  · omega
  · rw [h, h]

/-- No byte of OUTBUF is written yet, so each has the free value of this reset. -/
theorem hardReset_readByte (s : State) {a : Nat} (hlo : 0x8000 ≤ a) (hhi : a < 0xA000) :
    s.hardReset.readByte a = Config.outbufPowerOn (s.powerOns + 1) a := by
  have hbyte := readByte_outbuf s.hardReset (a := a - a % 4) (k := a % 4) (by omega) (by omega) (by omega)
    (by omega)
  rw [Nat.sub_add_cancel (Nat.mod_le a 4)] at hbyte
  exact hbyte

/-! ### Silence (R159, R198) -/

/-- With RAMP_CUR 0 the master gain makes every sample 0. -/
theorem sideSample_of_rampCur_zero (h : s.rampCur = 0) (gain : Channel → Int) : s.sideSample gain = 0 := by
  have hfx : fx s.rampCur = 0 := by rw [h]; rfl
  rw [State.sideSample, hfx, mul_zero]; rfl

theorem eq_zero_of_fx_eq_zero {w : Word} (h : fx w = 0) : w = 0 :=
  BitVec.eq_of_toInt_eq (h.trans BitVec.toInt_zero.symm)

/-- RAMP_CUR is 0 and no ramp is active. -/
def State.Silent (s : State) : Prop := s.rampCur = 0 ∧ s.rampCnt = 0

/-- An idle ramp stays as it is through a frame (R158). -/
theorem renderFrame_silent (h : s.Silent) (i : Nat) : (s.renderFrame i).Silent := by
  have hidle : s.advanceRamp = s := advanceRamp_of_idle (congrArg BitVec.toNat h.2)
  have hramp := renderFrame_ramp s i
  rw [hidle, ramp_ext_iff] at hramp
  obtain ⟨-, hcur, -, hcnt⟩ := hramp
  exact ⟨hcur.trans h.1, hcnt.trans h.2⟩

theorem renderFrom_silent (h : s.Silent) (i n : Nat) : (s.renderFrom i n).Silent :=
  renderFrom_keeps s State.Silent (fun _ i hu => renderFrame_silent hu i) i n h

/-- A frame that leaves RAMP_CUR at 0 has two samples of 0, whatever the channels hold. -/
theorem renderFrame_samples_zero (h : s.Silent) (i : Nat) :
    (s.renderFrame i).lastL = 0 ∧ (s.renderFrame i).lastR = 0 := by
  obtain ⟨hcur, -⟩ := renderFrame_silent h i
  rw [renderFrame_eq] at hcur ⊢
  obtain ⟨hleft, hright⟩ := stageOutput_samples s.inputsReady.stageChannels i
  exact ⟨eq_zero_of_fx_eq_zero (hleft.trans (sideSample_of_rampCur_zero hcur _)),
    eq_zero_of_fx_eq_zero (hright.trans (sideSample_of_rampCur_zero hcur _))⟩

theorem renderBlock_samples_zero (h : s.Silent) {n : Nat} (hn : 0 < n) :
    (s.renderBlock n).lastL = 0 ∧ (s.renderBlock n).lastR = 0 := by
  obtain ⟨m, rfl⟩ := Nat.exists_eq_succ_of_ne_zero hn.ne'
  rw [renderBlock_succ]
  exact renderFrame_samples_zero (renderFrom_silent h 0 m) m

/-- Each entry holds the samples of the frame that wrote it. -/
theorem renderBlock_entries_zero (h : s.Silent) {n j : Nat} (hj : j < n) (hcap : n ≤ Config.outbufCap) :
    (s.renderBlock n).readWord (outbufOffset j) = 0 ∧
      (s.renderBlock n).readWord (outbufOffset j + 4) = 0 := by
  obtain ⟨hleft, hright⟩ := renderFrom_readWord_entry s (i := 0) hj (by omega)
  obtain ⟨hL, hR⟩ := renderBlock_samples_zero h (Nat.succ_pos j)
  rw [Nat.zero_add] at hleft hright
  exact ⟨hleft.trans hL, hright.trans hR⟩

end Sys2Proof.Machine

open Sys2Proof Sys2Proof.Machine

/-- Settles O16. The banks hold the same reset unit at every index. -/
theorem resetRegisterValues : Obligations.ResetRegisterValues :=
  ⟨⟨rfl, rfl, rfl, rfl, rfl, rfl, rfl, rfl, rfl, rfl, rfl, rfl, rfl, rfl, rfl, rfl⟩, reset_osc, reset_ch,
    reset_ip⟩

/-- Settles O17: the step is the hardware reset, with the coming accesses left. -/
theorem hardwareResetState : Obligations.HardwareResetState := by
  intro s rest hev
  exact ⟨_, step_of_event hev, rfl, fun _ _ => hardReset_readWord _, fun _ => hardReset_readByte _⟩

/-- Settles O19: RENDER leaves an idle ramp idle, so every frame's master gain is 0. -/
theorem silentUntilRampIsSet : Obligations.SilentUntilRampIsSet := by
  intro s hcur hcnt harg hmax
  have silent : s.Silent := ⟨hcur, hcnt⟩
  obtain ⟨hcur', hcnt'⟩ := renderFrom_silent silent 0 s.cmdArg.toNat
  refine ⟨_, exec_render harg, hcur', hcnt', fun i hi => ?_, renderBlock_samples_zero silent⟩
  rw [← outbufOffset_right]
  exact renderBlock_entries_zero silent hi (harg.trans hmax)

/-- Settles O53: no ramp is active at reset. -/
theorem resetStateHasInvariants : Obligations.ResetStateHasInvariants :=
  ⟨inv_iff.2 valid_reset, rampInv_of_idle rfl⟩
end
